-- ==== Sys2Proof/Word.lean ====
section
/-! DEFINITION. The widths of COMTool-BRC: bits, bytes, words and the index spaces of rule R40. -/

namespace Sys2Proof

/-- One bit: a sample, a flag, an output value (R12: `v ∈ {0,1}`). -/
abbrev Bit := Bool

/-- One byte of a frame or a byte payload (R40). -/
abbrev Byte := BitVec 8

/-- The 32-bit command word `cw` of the command port (R60, R61). -/
abbrev CmdWord := BitVec 32

/-- The 16-bit entry word of LOAD_TABLE's payload and READ_ENTRY's result (R68). -/
abbrev EntryWord := BitVec 16

/-- A value of the 16-bit checksum register (R100). -/
abbrev Crc := BitVec 16

/-- An input bit index, I0..I191, which is also a table index (R8 `NIN`, `NENT`; R40). -/
abbrev InIdx := Fin 192

/-- An output bit index, O0..O191 (R8 `NOUT`; R40). `RT[k].out` holds one (R21, R31). -/
abbrev OutIdx := Fin 192

/-- The 24-byte output data buffer `D` (R8 `NDATA`; R28). -/
abbrev DataBuf := Vector Byte 24

end Sys2Proof
end

