-- ==== Sys2Proof/Syntax.lean ====
section
/-! DEFINITION. The commands of COMTool-BRC, one constructor for each row of spec/opcode_table.json (R62, R63). A field
is the operand as R65 has it: an unsigned integer, zero-extended to a natural number. -/

namespace Sys2Proof

/-- A decoded command word. Payloads are not part of it: decoding looks at the command word alone (R64), and a command
takes its payload from the data-in port (R60, R67). -/
inductive Instr where
  /-- `SET_OUTPUT k, o`: set the target output bit of one entry (R120). -/
  | setOutput (k o : Nat)
  /-- `SET_ENABLED k, e`: enable or disable routing for one entry (R121). -/
  | setEnabled (k : Nat) (e : Bit)
  /-- `SET_LATCH k, l`: turn latch mode on or off for one entry (R122). -/
  | setLatch (k : Nat) (l : Bit)
  /-- `LOAD_TABLE [w0, …, w191]`: replace the whole routing table (R123). -/
  | loadTable
  /-- `READ_ENTRY k`: a copy of one routing entry (R124). -/
  | readEntry (k : Nat)
  /-- `READ_LATCH k`: a copy of one latch cell (R125). -/
  | readLatch (k : Nat)
  /-- `PROCESS [b0, …]`: one inbound frame to one outbound frame (R140). -/
  | process
  /-- `READ_SIGNAL bi, j, [b0, …]`: one bit of a frame (R170). -/
  | readSignal (bi j : Nat)
  /-- `CRC16 [b0, …]`: the checksum generator (R101). -/
  | crc16
  /-- `CRC_CHECK [b0, …]`: the checksum validator (R102). -/
  | crcCheck
deriving DecidableEq, Repr

end Sys2Proof
end

