-- ==== Sys2Proof/WellFormed.lean ====
section
/-! DEFINITION. Which command terms a command word can carry: each operand fits its field (R61, R65). Values of `k` and
`o` above 191 are well formed; the command's own rule refuses them when it runs (R64, R65). -/

namespace Sys2Proof

/-- The operands fit their fields: `k`, `o` and `bi` range over 0..255 and `j` over 0..7 (R65). -/
def Instr.wellFormed : Instr → Bool
  | .setOutput k o => decide (k < 256) && decide (o < 256)
  | .setEnabled k _ => decide (k < 256)
  | .setLatch k _ => decide (k < 256)
  | .loadTable => true
  | .readEntry k => decide (k < 256)
  | .readLatch k => decide (k < 256)
  | .process => true
  | .readSignal bi j => decide (bi < 256) && decide (j < 8)
  | .crc16 => true
  | .crcCheck => true

end Sys2Proof
end

