-- ==== Sys2Proof/Decode.lean ====
section
/-! DEFINITION. Decoding a command word (R61 to R66) and encoding a command, both from the tables of 30_encoding.md. -/

namespace Sys2Proof

/-- Field A, `cw[27:20]`, as a number: `k` of the table commands, `bi` of READ_SIGNAL (R61). -/
def fieldA (cw : CmdWord) : Nat := (cw.extractLsb' 20 8).toNat

/-- Field B, `cw[19:12]`, as a number: `o` of SET_OUTPUT (R61). -/
def fieldB (cw : CmdWord) : Nat := (cw.extractLsb' 12 8).toNat

/-- `B[2:0] = cw[14:12]` as a number: `j` of READ_SIGNAL (R61). -/
def fieldJ (cw : CmdWord) : Nat := (cw.extractLsb' 12 3).toNat

/-- Field V, `cw[0]`: the flag value (R61). -/
def fieldV (cw : CmdWord) : Bit := cw.getLsbD 0

/-- One row of rule R63's table, with the operands rule R64 reads for it. -/
structure Row where
  pattern : CmdWord
  mask : CmdWord
  build : CmdWord → Instr

/-- The ten rows of rule R63, in its order. -/
def rows : List Row :=
  [ ⟨0x10000000, 0xF0000FFF, fun w => .setOutput (fieldA w) (fieldB w)⟩,
    ⟨0x20000000, 0xF00FFFFE, fun w => .setEnabled (fieldA w) (fieldV w)⟩,
    ⟨0x30000000, 0xF00FFFFE, fun w => .setLatch (fieldA w) (fieldV w)⟩,
    ⟨0x40000000, 0xFFFFFFFF, fun _ => .loadTable⟩,
    ⟨0x50000000, 0xF00FFFFF, fun w => .readEntry (fieldA w)⟩,
    ⟨0x60000000, 0xF00FFFFF, fun w => .readLatch (fieldA w)⟩,
    ⟨0x70000000, 0xFFFFFFFF, fun _ => .process⟩,
    ⟨0x80000000, 0xF00F8FFF, fun w => .readSignal (fieldA w) (fieldJ w)⟩,
    ⟨0x90000000, 0xFFFFFFFF, fun _ => .crc16⟩,
    ⟨0xA0000000, 0xFFFFFFFF, fun _ => .crcCheck⟩ ]

/-- `(cw & mask) == match`: the word selects the row (R63). -/
def Row.selects (r : Row) (cw : CmdWord) : Bool := cw &&& r.mask == r.pattern

/-- Rule R64: the first row the word selects, with its operands; no row is `IllegalCommand` (R66). -/
def decode (cw : CmdWord) : Option Instr :=
  (rows.find? fun r => r.selects cw).map fun r => r.build cw

/-- A command word from its fields: OP at bit 28, A at bit 20, B at bit 12, V at bit 0, and RES = 0 (R61). -/
def commandWord (op : BitVec 4) (a b : BitVec 8) (v : BitVec 1) : CmdWord :=
  (op.setWidth 32 <<< 28) ||| (a.setWidth 32 <<< 20) ||| (b.setWidth 32 <<< 12) ||| v.setWidth 32

/-- The command word of a well-formed command (R61 to R63). -/
def encode : Instr → CmdWord
  | .setOutput k o => commandWord 0x1 (BitVec.ofNat 8 k) (BitVec.ofNat 8 o) 0
  | .setEnabled k e => commandWord 0x2 (BitVec.ofNat 8 k) 0 (BitVec.ofBool e)
  | .setLatch k l => commandWord 0x3 (BitVec.ofNat 8 k) 0 (BitVec.ofBool l)
  | .loadTable => commandWord 0x4 0 0 0
  | .readEntry k => commandWord 0x5 (BitVec.ofNat 8 k) 0 0
  | .readLatch k => commandWord 0x6 (BitVec.ofNat 8 k) 0 0
  | .process => commandWord 0x7 0 0 0
  | .readSignal bi j => commandWord 0x8 (BitVec.ofNat 8 bi) ((BitVec.ofNat 3 j).setWidth 8) 0
  | .crc16 => commandWord 0x9 0 0 0
  | .crcCheck => commandWord 0xA 0 0 0

/-- The command the decoder reads from a command whose bits are `w`, of which the opcode table gives `nbits`. A command
is one 32-bit word delivered whole, so no byte order enters (R46, R67; D26). -/
def decodeTableWord (nbits w : Nat) : Option Instr :=
  decode (BitVec.ofNat 32 (w % 2 ^ nbits))

end Sys2Proof
end

