-- ==== Sys2Proof/Config.lean ====
section
/-! DEFINITION. The fixed numbers of rule R8, the two parameters of rule R9, and the free values: what the spec leaves
open and no proof can know (R231, R232). -/

namespace Sys2Proof

/-- `IN_MIN`: the least length of an inbound frame (R8). -/
abbrev inMin : Nat := 25

/-- `IN_MARK`: the inbound marker (R8). -/
abbrev inMark : Byte := 0x5A

/-- `OUT_MARK`: the outbound marker (R8). -/
abbrev outMark : Byte := 0xA5

/-- `STATUS`: the constant status byte at outbound byte 25 (R8, R28). -/
abbrev statusByte : Byte := 0x01

/-- `OUT_LEN`: the outbound frame has 28 bytes (R8, R82; 90_conflicts.md C1). -/
abbrev outLen : Nat := 28

/-- `CRC_INIT` (R8, R100). -/
abbrev crcInit : Crc := 0xFFFF

/-- `CRC_POLY`, the polynomial in reflected form (R8, R100). -/
abbrev crcPoly : Crc := 0xA001

/-- `CRC_ORDER`, the order of the two appended checksum bytes (R9, R45; 92_eei_decisions.md D8). -/
inductive CrcOrder where
  /-- `F[26] = hi(c)`, `F[27] = lo(c)`: the spec's value. -/
  | hiFirst
  /-- `F[26] = lo(c)`, `F[27] = hi(c)`. -/
  | loFirst
deriving DecidableEq, Repr

/-- The parameters a model takes as configuration (R9). No command changes them (R46). -/
structure Config where
  /-- `CRC_ORDER`. -/
  crcOrder : CrcOrder
  /-- `MAX_PAYLOAD`, the largest byte payload the data-in port carries. -/
  maxPayload : Nat
deriving DecidableEq, Repr

/-- The spec's own values: `HI_FIRST` and 257 (R9; D8, D11). -/
def Config.reference : Config := { crcOrder := .hiFirst, maxPayload := 257 }

/-- The legal configurations: `28 ≤ MAX_PAYLOAD ≤ 257` (R9). -/
abbrev Config.wf (c : Config) : Prop := 28 ≤ c.maxPayload ∧ c.maxPayload ≤ 257

/-- FREE VALUE (R231, U8; log entry 3). Whether the `n`-th command that reset overlaps is completed (a) or abandoned
(b). The spec says a model must allow both, so nothing is known of this constant. -/
opaque Config.overlapCompletes : Nat → Bool

/-- FREE VALUE (R232, U7; log entry 4). `RT[k].out` at power-on: some value in 0..191. -/
opaque Config.powerOnOut : InIdx → OutIdx

/-- FREE VALUE (R232, U7; log entry 4). `RT[k].en` at power-on. -/
opaque Config.powerOnEn : InIdx → Bit

/-- FREE VALUE (R232, U7; log entry 4). `RT[k].lt` at power-on. -/
opaque Config.powerOnLt : InIdx → Bit

/-- FREE VALUE (R232, U7; log entry 4). `LS[k].prev` at power-on. -/
opaque Config.powerOnPrev : InIdx → Bit

/-- FREE VALUE (R232, U7; log entry 4). `LS[k].tog` at power-on. -/
opaque Config.powerOnTog : InIdx → Bit

end Sys2Proof
end

