-- ==== Sys2Proof/Machine/State.lean ====
section
/-! DEFINITION. The state of COMTool-BRC: the two register files of 10_state.md, the ports of rule R60 with the values
that stand on them, the configuration of rule R9, and the state after reset. -/

namespace Sys2Proof.Machine

/-- One routing entry (R20). `out` is typed so that it holds 0..191 only (R21, R31). -/
structure RouteEntry where
  /-- `RT[k].out`, the target output bit. -/
  out : OutIdx
  /-- `RT[k].en`, routing enabled. -/
  en : Bit
  /-- `RT[k].lt`, latch (self-lock) mode. -/
  lt : Bit
deriving DecidableEq, Repr

/-- One latch cell (R24). -/
structure LatchCell where
  /-- `LS[k].prev`, the previous sampled value of input bit `k`. -/
  prev : Bit
  /-- `LS[k].tog`, the current toggled output state. -/
  tog : Bit
deriving DecidableEq, Repr

/-- The routing table `RT` (R20). -/
abbrev RoutingTable := Vector RouteEntry 192

/-- The latch store `LS` (R24). -/
abbrev LatchStore := Vector LatchCell 192

/-- The 192 entry words of a table payload (R60, R68). -/
abbrev TableWords := Vector EntryWord 192

/-- What stands on the data-in port: one of the three kinds of payload (R60). -/
inductive Payload where
  /-- No payload. -/
  | none
  /-- A byte payload `p`; its length travels with it. -/
  | bytes (p : List Byte)
  /-- A table payload: exactly 192 entry words. -/
  | table (w : TableWords)
deriving DecidableEq, Repr

/-- The status of a response (R200). Codes 6 and 7 are never produced and have no constructor (U11). -/
inductive Status where
  /-- Code 0: the command completed. -/
  | ok
  /-- Code 1: raised by PROCESS and CRC_CHECK. -/
  | frameTooShort
  /-- Code 2: raised by PROCESS. -/
  | invalidMarker
  /-- Code 3: never raised by the core; a host reports its own resolver failures with it. -/
  | addressMalformed
  /-- Code 4: raised by the commands of 41_table.md. -/
  | routingIndexOutOfRange
  /-- Code 5: raised for a word that is no command, and by LOAD_TABLE. -/
  | illegalCommand
deriving DecidableEq, Repr

/-- The result data of a response, of the widths rule R69 gives. -/
inductive ResultData where
  /-- No data: every error, and the commands that write the table. -/
  | none
  /-- READ_ENTRY: one entry word. -/
  | entry (w : EntryWord)
  /-- READ_LATCH: `r[1] = prev`, `r[0] = tog`. -/
  | latch (r : BitVec 2)
  /-- PROCESS: the outbound frame `F[0..27]`. -/
  | frame (f : List Byte)
  /-- READ_SIGNAL: one bit. -/
  | signal (b : BitVec 1)
  /-- CRC16: the checksum. -/
  | crc (c : Crc)
  /-- CRC_CHECK: `r[16] = MATCH`, `r[15:0]` = the computed checksum. -/
  | crcCheck (r : BitVec 17)
deriving DecidableEq, Repr

/-- One response: a status and the command's result data (R60, R69). -/
structure Response where
  st : Status
  data : ResultData
deriving DecidableEq, Repr

/-- The core's architectural state: rule R31's state type, exactly. All that persists from one command to the next is
here (`commandOn` in Session.lean is the step over it, with the configuration as a parameter). -/
structure CoreState where
  /-- `RT[0..191]` (R20). -/
  rt : RoutingTable
  /-- `LS[0..191]` (R24). -/
  ls : LatchStore
deriving DecidableEq, Repr

/-- The machine as the host's interface needs it, whose step takes a state and nothing beside it: the core's state (R31)
and all that the core is given and answers. The ports of R60 hold what the host presents and what the core answers (log
entry 1); `cfg` is the configuration, the parameter of the step (R9, R31; log entry 2); `draws` is the model's own counter
for the free value of R231 (log entry 3). -/
structure State extends CoreState where
  /-- The command port: the command word presented and not yet accepted (R60, R61). -/
  cmd : Option CmdWord
  /-- The data-in port (R60). -/
  dataIn : Payload
  /-- The response port: the response to the command the last step completed, if it completed one (R60, R69). -/
  resp : Option Response
  /-- The reset input `rst` (R60, R230). -/
  rst : Bit
  /-- `CRC_ORDER` and `MAX_PAYLOAD` (R9). No step changes them (R46). -/
  cfg : Config
  /-- MODEL's own: how many overlapped resets have drawn their outcome (R231). -/
  draws : Nat
deriving DecidableEq, Repr

/-- Why the machine would stop with a fault. It has no constructor: every error of the core is a response, and nothing
in it traps or stops (R201, R209). Safe: a claim that no step faults is the spec's own. -/
inductive Fault where
deriving DecidableEq, Repr

/-- Why a step has no meaning. -/
inductive Refusal where
  /-- Raised by an arm of `exec` for an instruction that has no meaning yet; no arm answers it. Safe. -/
  | notModelled (mnemonic : String)
  /-- Raised by a command that takes a byte payload longer than `MAX_PAYLOAD`: the port cannot carry it, and the spec
  has the model refuse it (U12, D11). Safe: such a command has no meaning in the spec. -/
  | payloadTooLong
  /-- Raised by a command that takes a byte payload where the host presents none (R62, R67; log entry 5). Safe: what was
  presented is not a whole command. -/
  | bytePayloadMissing
  /-- Raised by LOAD_TABLE where the host presents no table payload (R62, R67; log entry 5). Safe: what was presented is
  not a whole command. -/
  | tablePayloadMissing
deriving DecidableEq, Repr

/-- A routing entry's reset value: `out = k`, not enabled, no latch (R20, R230). -/
def RouteEntry.reset (k : InIdx) : RouteEntry := { out := k, en := false, lt := false }

/-- A latch cell's reset value, and the value the latch-flag clear writes (R24, R25, R230). -/
def LatchCell.cleared : LatchCell := { prev := false, tog := false }

/-- `RT` after reset (R230). -/
def RoutingTable.reset : RoutingTable := Vector.ofFn RouteEntry.reset

/-- `LS` after reset (R230; D18). -/
def LatchStore.reset : LatchStore := Vector.replicate 192 LatchCell.cleared

/-- The machine right after reset (R230), with nothing presented on its ports and no response on the response port (log
entry 1), under the spec's own configuration (R9, log entry 2). -/
def State.reset : State where
  rt := RoutingTable.reset
  ls := LatchStore.reset
  cmd := Option.none
  dataIn := .none
  resp := Option.none
  rst := false
  cfg := Config.reference
  draws := 0

end Sys2Proof.Machine
end

