-- ==== Sys2Proof/Machine/Ops.lean ====
section
/-! DEFINITION. The operations the commands share: the bit primitives of rule R12, the two register files, the response
port, raising an error, taking a payload, validating an inbound frame, and reset. -/

namespace Sys2Proof.Machine

/-- The outcome of a step of this machine. -/
abbrev Result := Host.Outcome State Fault Refusal

/-! ### Bits and bytes (R12) -/

/-- `getbit(b, j) = (b >> j) & 1` (R12). -/
def getbit (b : Byte) (j : Nat) : Bit := (b >>> j) &&& 1#8 == 1#8

/-- `putbit(b, j, v) = (b & ~(1 << j)) | (v << j)` (R12). -/
def putbit (b : Byte) (j : Nat) (v : Bit) : Byte :=
  (b &&& ~~~(1#8 <<< j)) ||| ((BitVec.ofBool v).setWidth 8 <<< j)

/-- `OutPut(D, o, v)`: replace bit `7 - o mod 8` of `D[o div 8]` (R12, R44). -/
def outPut (d : DataBuf) (o : OutIdx) (v : Bit) : DataBuf :=
  d.set (o.val / 8) (putbit d[o.val / 8] (7 - o.val % 8) v)

/-! ### Inbound frames (R80, R81) -/

/-- A valid inbound frame: at least 25 bytes, of which the first is the marker (R81). -/
structure InFrame where
  bytes : List Byte
  long : inMin ≤ bytes.length
  marked : bytes[0]? = some inMark
deriving DecidableEq, Repr

/-- Validation of an inbound frame: the length check, then the marker check (R140, R205, R207). -/
def checkFrame (p : List Byte) : Except Status InFrame :=
  if long : inMin ≤ p.length then
    if marked : p[0]? = some inMark then .ok { bytes := p, long := long, marked := marked }
    else .error .invalidMarker
  else .error .frameTooShort

/-- `InBit(p, k) = getbit(p[1 + k div 8], 7 - k mod 8)` (R12, R43). Every valid frame holds every input bit, so there is
no zero-fill (R141; C5). -/
def inBit (f : InFrame) (k : InIdx) : Bit :=
  getbit (f.bytes[1 + k.val / 8]'(by have := f.long; have := k.isLt; unfold inMin at *; omega)) (7 - k.val % 8)

/-! ### The register files (R11) -/

/-- `RT[k] <- e` (R11). -/
def State.setEntry (k : InIdx) (e : RouteEntry) (s : State) : State := { s with rt := s.rt.set k e }

/-- `LS[k] <- c` (R11). -/
def State.setCell (k : InIdx) (c : LatchCell) (s : State) : State := { s with ls := s.ls.set k c }

/-! ### The response port (R13, R69, R200) -/

/-- The 3-bit code of a status (R200). -/
def Status.code : Status → BitVec 3
  | .ok => 0
  | .frameTooShort => 1
  | .invalidMarker => 2
  | .addressMalformed => 3
  | .routingIndexOutOfRange => 4
  | .illegalCommand => 5

/-- Put a response on the response port. -/
def State.setResp (r : Option Response) (s : State) : State := { s with resp := r }

/-- `respond(OK, data)` (R13). -/
def respond (data : ResultData) (s : State) : Result := .next (s.setResp (some { st := .ok, data := data }))

/-- `raise E`: `respond(E, none)` (R13). This is the core's only exception entry: no register changes, nothing is saved,
no vector is used, and the next command is accepted as usual (R201, R204, R209). Its caller hands it the state as it was
before the command's writes. -/
def raise (e : Status) (s : State) : Result := .next (s.setResp (some { st := e, data := .none }))

/-! ### Payloads (R60, R67) -/

/-- Run a meaning on the byte payload of the data-in port (R60). A payload above `MAX_PAYLOAD` cannot be presented
(U12); a command without its payload is not whole (R67, log entry 5). -/
def withBytes (s : State) (run : List Byte → Result) : Result :=
  match s.dataIn with
  | .bytes p => if p.length ≤ s.cfg.maxPayload then run p else .refused .payloadTooLong
  | _ => .refused .bytePayloadMissing

/-- Run a meaning on the table payload of the data-in port (R60, R67; log entry 5). -/
def withTable (s : State) (run : TableWords → Result) : Result :=
  match s.dataIn with
  | .table w => run w
  | _ => .refused .tablePayloadMissing

/-- Run a meaning on the input bit index `k`, or raise `RoutingIndexOutOfRange` (R200, R205; D7). -/
def withIndex (k : Nat) (s : State) (run : InIdx → Result) : Result :=
  if h : k < 192 then run ⟨k, h⟩ else raise .routingIndexOutOfRange s

/-! ### Reset and power-on (R230 to R232) -/

/-- Apply reset: every register takes its reset value, and the two inputs it consumes are released (R230). The response
port keeps what stands on it, which the caller has chosen. The configuration is fixed for the life of the instance
(R46). -/
def State.applyReset (s : State) : State :=
  { s with rt := RoutingTable.reset, ls := LatchStore.reset, cmd := Option.none, rst := false }

/-- The machine at power-on, before its first reset: every register holds some value (R232, log entry 4). R232 gives the
ports no value there: that nothing is presented, no response stands and `rst` is not applied, as right after reset, is
the model's choice (log entry 4). -/
def State.powerOn : State :=
  { State.reset with
    rt := Vector.ofFn fun k =>
      { out := Config.powerOnOut k, en := Config.powerOnEn k, lt := Config.powerOnLt k }
    ls := Vector.ofFn fun k => { prev := Config.powerOnPrev k, tog := Config.powerOnTog k } }

end Sys2Proof.Machine
end

