-- ==== Sys2Proof/Machine/Flags.lean ====
section
/-! DEFINITION. The core has no condition flags (R27). What it computes in their place: the clear on a latch flag's
transition (R25) and the edge detector of a latch cell (R142, R145). -/

namespace Sys2Proof.Machine

/-- The latch cell after its entry's latch flag goes from `old` to `new`: cleared on a transition from 0 to 1, kept
otherwise (R25, R122, R123). -/
def latchFlagWritten (old new : Bit) (c : LatchCell) : LatchCell :=
  if !old && new then LatchCell.cleared else c

/-- One sample of an enabled latch entry's cell: flip `tog` on a rising edge, then set `prev` whether or not an edge
occurred (R142). The entry's output value is the new `tog`. -/
def sampleLatch (c : LatchCell) (cur : Bit) : LatchCell :=
  { prev := cur, tog := if !c.prev && cur then !c.tog else c.tog }

/-- The same cell as per-bit hardware: `rise = cur & ~prev`, an XOR toggle and a one-stage shift register (R145). -/
def edgeDetector (c : LatchCell) (cur : Bit) : LatchCell :=
  let rise := cur && !c.prev
  { prev := cur, tog := c.tog ^^ rise }

end Sys2Proof.Machine
end

