-- ==== Sys2Proof/Machine/Operands.lean ====
section
/-! DEFINITION. The operand and result formats: which payload a command takes (R62), the entry word (R68), the latch
read-out (R69), and the two checksum bytes (R45). -/

namespace Sys2Proof.Machine

/-- The kind of payload a command calls for (R62). -/
inductive PayloadKind where
  | none
  | bytes
  | table
deriving DecidableEq, Repr

/-- The payload column of the opcode map (R62). -/
def payloadKind : Instr → PayloadKind
  | .setOutput _ _ => .none
  | .setEnabled _ _ => .none
  | .setLatch _ _ => .none
  | .loadTable => .table
  | .readEntry _ => .none
  | .readLatch _ => .none
  | .process => .bytes
  | .readSignal _ _ => .bytes
  | .crc16 => .bytes
  | .crcCheck => .bytes

/-- Whether a payload is of the kind a command calls for and within `MAX_PAYLOAD`. A command that calls for none ignores
the data-in port (R60, U12). -/
def payloadFits (cfg : Config) : PayloadKind → Payload → Bool
  | .none, _ => true
  | .bytes, .bytes p => decide (p.length ≤ cfg.maxPayload)
  | .table, .table _ => true
  | _, _ => false

/-! ### Entry words (R68) -/

/-- The entry word of an entry: `{out, 0b000000, en, lt}` (R68, R124). -/
def entryWord (e : RouteEntry) : EntryWord :=
  (BitVec.ofNat 16 e.out.val <<< 8) ||| ((BitVec.ofBool e.en).setWidth 16 <<< 1) ||| (BitVec.ofBool e.lt).setWidth 16

/-- `w[15:8]`, the OUT field (R68). -/
def wordOut (w : EntryWord) : Nat := (w.extractLsb' 8 8).toNat

/-- `w[7:2]`, the reserved field, which must be 0 (R68). -/
def wordReserved (w : EntryWord) : BitVec 6 := w.extractLsb' 2 6

/-- `w[1]`, the EN field (R68). -/
def wordEn (w : EntryWord) : Bit := w.getLsbD 1

/-- `w[0]`, the LT field (R68). -/
def wordLt (w : EntryWord) : Bit := w.getLsbD 0

/-- The entry a word whose OUT field is in range stands for (R68, R123). -/
def wordEntry (w : EntryWord) (h : wordOut w < 192) : RouteEntry :=
  { out := ⟨wordOut w, h⟩, en := wordEn w, lt := wordLt w }

/-- The default entry word of input bit `k`: `k << 8` (R127). -/
def defaultWord (k : InIdx) : EntryWord := BitVec.ofNat 16 k.val <<< 8

/-- The table payload of default entries (R72 `CLEAR_TABLE`, R127). -/
def defaultTable : TableWords := Vector.ofFn defaultWord

/-! ### Read-outs (R69) -/

/-- READ_LATCH's two bits: `r[1] = prev`, `r[0] = tog` (R69, R125). -/
def latchBits (c : LatchCell) : BitVec 2 :=
  ((BitVec.ofBool c.prev).setWidth 2 <<< 1) ||| (BitVec.ofBool c.tog).setWidth 2

/-- CRC_CHECK's seventeen bits: `r[16] = MATCH`, `r[15:0]` = the checksum (R69). -/
def checkBits (matched : Bit) (c : Crc) : BitVec 17 :=
  ((BitVec.ofBool matched).setWidth 17 <<< 16) ||| c.setWidth 17

/-! ### The two checksum bytes (R10, R45) -/

/-- `hi(c) = c[15:8]` (R10). -/
def hiByte (c : Crc) : Byte := c.extractLsb' 8 8

/-- `lo(c) = c[7:0]` (R10). -/
def loByte (c : Crc) : Byte := c.extractLsb' 0 8

/-- A checksum as the two bytes appended to a frame, in `CRC_ORDER` (R45, R82). -/
def crcBytes (order : CrcOrder) (c : Crc) : List Byte :=
  match order with
  | .hiFirst => [hiByte c, loByte c]
  | .loFirst => [loByte c, hiByte c]

/-- `{hi, lo}`: a 16-bit value from its two bytes (R10, R102). -/
def crcWord (hi lo : Byte) : Crc := (hi.setWidth 16 <<< 8) ||| lo.setWidth 16

/-- The checksum two trailing bytes hold, in `CRC_ORDER` (R102). -/
def crcOfBytes (order : CrcOrder) (b0 b1 : Byte) : Crc :=
  match order with
  | .hiFirst => crcWord b0 b1
  | .loFirst => crcWord b1 b0

end Sys2Proof.Machine
end

