-- ==== Sys2Proof/Machine/Crc.lean ====
section
/-! DEFINITION. The CRC-16 generator and validator (40_crc.md). -/

namespace Sys2Proof.Machine

/-- One shift step: shift right, and XOR the polynomial when the bit shifted out is 1 (R100). -/
def crcShift (c : Crc) : Crc := if c.getLsbD 0 then (c >>> 1) ^^^ crcPoly else c >>> 1

/-- The eight shift steps of one byte (R100). -/
def crcShift8 (c : Crc) : Crc :=
  crcShift (crcShift (crcShift (crcShift (crcShift (crcShift (crcShift (crcShift c)))))))

/-- One byte: XOR into the low byte of the running value, then eight shift steps (R100). -/
def crcByte (c : Crc) (b : Byte) : Crc := crcShift8 (c ^^^ b.setWidth 16)

/-- The checksum of a byte sequence: initial value 0xFFFF, no final XOR (R100; D9). -/
def crc16 (bs : List Byte) : Crc := bs.foldl crcByte crcInit

/-- The lookup table `T[x]`: the running value after the eight shift steps applied to `c = x` (R103). -/
def crcTable (x : Byte) : Crc := crcShift8 (x.setWidth 16)

/-- One byte in the lookup-table form: `(c >> 8) ^ T[(c ^ b) & 0xFF]` (R103). -/
def crcTableByte (c : Crc) (b : Byte) : Crc := (c >>> 8) ^^^ crcTable ((c ^^^ b.setWidth 16).setWidth 8)

/-- The lookup-table form of the checksum, an allowed implementation (R103, U3). -/
def crc16Table (bs : List Byte) : Crc := bs.foldl crcTableByte crcInit

/-- The validator: the stored checksum of the last two bytes against the checksum of the bytes before them. Answers
`(MATCH, CRC)` (R102). -/
def crcCheck (order : CrcOrder) (p : List Byte) : Except Status (Bit × Crc) :=
  if h : p.length < 2 then .error .frameTooShort
  else
    let c := crc16 (p.take (p.length - 2))
    .ok (c == crcOfBytes order p[p.length - 2] p[p.length - 1], c)

/-- CRC16 (R101). -/
def execCrc16 (s : State) : Result :=
  withBytes s fun p => respond (.crc (crc16 p)) s

/-- CRC_CHECK (R102). A mismatch is no error: it responds `OK` with `MATCH = 0` (R203). -/
def execCrcCheck (s : State) : Result :=
  withBytes s fun p =>
    match crcCheck s.cfg.crcOrder p with
    | .ok (matched, c) => respond (.crcCheck (checkBits matched c)) s
    | .error e => raise e s

end Sys2Proof.Machine
end

