-- ==== Sys2Proof/Machine/Routing.lean ====
section
/-! DEFINITION. The routing engine (42_routing.md): PROCESS deserializes an inbound frame, routes its bits through the
table and the latches, and serializes and signs the outbound frame. -/

namespace Sys2Proof.Machine

/-- What PROCESS's loop carries: the latch store and the output data buffer `D` (R28, R140). -/
structure Pass where
  ls : LatchStore
  data : DataBuf
deriving DecidableEq, Repr

/-- The body of PROCESS's loop for entry `k` (R140): a disabled entry contributes nothing, a direct entry writes its
input bit, a latch entry samples its cell and writes the new `tog` (R142, R143). -/
def routeEntry (rt : RoutingTable) (f : InFrame) (a : Pass) (k : InIdx) : Pass :=
  if rt[k].en then
    if rt[k].lt then
      let c := sampleLatch a.ls[k] (inBit f k)
      { ls := a.ls.set k c, data := outPut a.data rt[k].out c.tog }
    else { a with data := outPut a.data rt[k].out (inBit f k) }
  else a

/-- PROCESS's loop over a list of entries, with `D` all zero at the start (R140, R143). -/
def routeOver (ks : List InIdx) (rt : RoutingTable) (f : InFrame) (ls : LatchStore) : Pass :=
  ks.foldl (routeEntry rt f) { ls := ls, data := Vector.replicate 24 0 }

/-- PROCESS's loop: all 192 entries in ascending order (R29, R140). -/
def routeFrame (rt : RoutingTable) (f : InFrame) (ls : LatchStore) : Pass :=
  routeOver (List.finRange 192) rt f ls

/-- The derived index the source suggests: the enabled entries, in ascending order (R29). -/
def enabledIndex (rt : RoutingTable) : List InIdx := (List.finRange 192).filter fun k => rt[k].en

/-- The first 26 bytes of the outbound frame: marker, data bytes, status byte (R82, R144). -/
def frameBody (data : DataBuf) : List Byte := outMark :: (data.toList ++ [statusByte])

/-- The outbound frame: its body and the body's checksum in `CRC_ORDER` (R82, R83, R144). -/
def outFrame (order : CrcOrder) (data : DataBuf) : List Byte :=
  frameBody data ++ crcBytes order (crc16 (frameBody data))

/-- PROCESS (R140). The frame is checked before any state is read or written, so a rejected frame leaves the latch store
unchanged (R206, R207). -/
def execProcess (s : State) : Result :=
  withBytes s fun p =>
    match checkFrame p with
    | .ok f =>
      let r := routeFrame s.rt f s.ls
      respond (.frame (outFrame s.cfg.crcOrder r.data)) { s with ls := r.ls }
    | .error e => raise e s

end Sys2Proof.Machine
end

