-- ==== Sys2Proof/Machine/Signal.lean ====
section
/-! DEFINITION. Named-signal extraction (43_signal.md). -/

namespace Sys2Proof.Machine

/-- `READ_SIGNAL(bi, j, p)`: bit `j` of `p[bi + 1]`, and 0 where that byte is not in the payload (R170). No marker and no
length is checked (R171; D14). -/
def readSignal (bi j : Nat) (p : List Byte) : Bit :=
  if h : bi + 1 < p.length then getbit p[bi + 1] j else false

/-- READ_SIGNAL (R170). -/
def execReadSignal (bi j : Nat) (s : State) : Result :=
  withBytes s fun p => respond (.signal (BitVec.ofBool (readSignal bi j p))) s

end Sys2Proof.Machine
end

