-- ==== Sys2Proof/Machine/Table.lean ====
section
/-! DEFINITION. The routing table and latch store commands (41_table.md). -/

namespace Sys2Proof.Machine

/-- SET_OUTPUT (R120). Both indices are checked before the write; either out of range gives the one status (R205). -/
def execSetOutput (k o : Nat) (s : State) : Result :=
  withIndex k s fun i =>
    withIndex o s fun t =>
      respond .none (s.setEntry i { s.rt[i] with out := t })

/-- SET_ENABLED (R121). The latch cell is not touched in either direction. -/
def execSetEnabled (k : Nat) (e : Bit) (s : State) : Result :=
  withIndex k s fun i =>
    respond .none (s.setEntry i { s.rt[i] with en := e })

/-- SET_LATCH (R122): a latch flag going from 0 to 1 clears the cell, whatever the entry's enable is. -/
def execSetLatch (k : Nat) (l : Bit) (s : State) : Result :=
  withIndex k s fun i =>
    respond .none
      ((s.setCell i (latchFlagWritten s.rt[i].lt l s.ls[i])).setEntry i { s.rt[i] with lt := l })

/-- LOAD_TABLE's two checks over all words: a reserved bit anywhere comes before an index out of range anywhere (R123,
R205). -/
def checkTable (w : TableWords) : Except Status RoutingTable :=
  if w.any fun x => wordReserved x != 0 then .error .illegalCommand
  else if h : ∀ k : InIdx, wordOut w[k] < 192 then .ok (Vector.ofFn fun k => wordEntry w[k] (h k))
  else .error .routingIndexOutOfRange

/-- The latch store after the whole table becomes `new`: each cell whose latch flag goes from 0 to 1 is cleared (R25,
R123). -/
def clearedForTable (old new : RoutingTable) (ls : LatchStore) : LatchStore :=
  Vector.ofFn fun k => latchFlagWritten old[k].lt new[k].lt ls[k]

/-- LOAD_TABLE (R123): the table is replaced whole, in one step, or not at all. -/
def execLoadTable (s : State) : Result :=
  withTable s fun w =>
    match checkTable w with
    | .ok rt => respond .none { s with rt := rt, ls := clearedForTable s.rt rt s.ls }
    | .error e => raise e s

/-- READ_ENTRY (R124). -/
def execReadEntry (k : Nat) (s : State) : Result :=
  withIndex k s fun i => respond (.entry (entryWord s.rt[i])) s

/-- READ_LATCH (R125). -/
def execReadLatch (k : Nat) (s : State) : Result :=
  withIndex k s fun i => respond (.latch (latchBits s.ls[i])) s

end Sys2Proof.Machine
end

