-- ==== Sys2Proof/Machine/Dispatch.lean ====
section
/-! DEFINITION. One arm for each command of the opcode table (R62). -/

namespace Sys2Proof.Machine

def exec (i : Instr) (s : State) : Host.Outcome State Fault Refusal :=
  match i with
  | .setOutput k o => Sys2Proof.Machine.execSetOutput k o s
  | .setEnabled k e => Sys2Proof.Machine.execSetEnabled k e s
  | .setLatch k l => Sys2Proof.Machine.execSetLatch k l s
  | .loadTable => Sys2Proof.Machine.execLoadTable s
  | .readEntry k => Sys2Proof.Machine.execReadEntry k s
  | .readLatch k => Sys2Proof.Machine.execReadLatch k s
  | .process => Sys2Proof.Machine.execProcess s
  | .readSignal bi j => Sys2Proof.Machine.execReadSignal bi j s
  | .crc16 => Sys2Proof.Machine.execCrc16 s
  | .crcCheck => Sys2Proof.Machine.execCrcCheck s

end Sys2Proof.Machine
end

