-- ==== Sys2Proof/Machine/Port.lean ====
section
/-! DEFINITION. The command port: presenting a command, accepting it, an idle step, and reset alone or over a command
(R50, R60, R208, R230, R231). The meanings come in as an argument, `run`, so that Step.lean only joins the two. -/

namespace Sys2Proof.Machine

/-- The core takes the command off the command port. The response of an earlier command does not stay (R50, R202). -/
def State.accept (s : State) : State := { s with cmd := Option.none, resp := Option.none }

/-- Decode an accepted word and run the command; a word that is no command responds `IllegalCommand` (R64, R66). -/
def runWord (run : Instr → State → Result) (w : CmdWord) (s : State) : Result :=
  match decode w with
  | some i => run i s
  | none => raise .illegalCommand s

/-- Reset after a command that it overlapped has completed: the command's response stands, its state changes do not
outlive reset (R231 (a)). -/
def resetAfter : Result → Result
  | .next s => .next s.applyReset
  | .fault r => .fault r
  | .refused r => .refused r

/-- A step with `rst` applied. With no command in progress it is reset alone, which gives no response (R230). With one,
the free value of R231 says whether the command completes first (a) or is abandoned without response (b). -/
def resetStep (run : Instr → State → Result) (s : State) : Result :=
  match s.cmd with
  | none => .next s.accept.applyReset
  | some w =>
    let t := { s.accept with draws := s.draws + 1 }
    if Config.overlapCompletes s.draws then resetAfter (runWord run w t) else .next t.applyReset

/-- A step with no `rst`: one command, atomic, accepted and completed (R49, R50), or nothing where no command is
presented (R208). -/
def commandStep (run : Instr → State → Result) (s : State) : Result :=
  match s.cmd with
  | none => .next s.accept
  | some w => runWord run w s.accept

/-- One step of the core. -/
def stepWith (run : Instr → State → Result) (s : State) : Result :=
  if s.rst then resetStep run s else commandStep run s

/-- The host presents a command word and its payload (R60, R67). -/
def State.present (w : CmdWord) (p : Payload) (s : State) : State := { s with cmd := some w, dataIn := p }

/-- A payload that makes a command word a whole command: the one that stands on the data-in port where the command can
take it, else the empty byte payload or the table of default entries (log entry 6). -/
def payloadFor (w : CmdWord) (s : State) : Payload :=
  match decode w with
  | none => s.dataIn
  | some i =>
    if payloadFits s.cfg (payloadKind i) s.dataIn then s.dataIn
    else
      match payloadKind i with
      | .none => s.dataIn
      | .bytes => .bytes []
      | .table => .table defaultTable

/-- The host presents a command word with no reset, so that the next step runs it (log entry 6). -/
def State.presentWord (w : CmdWord) (s : State) : State :=
  { s.present w (payloadFor w s) with rst := false }

end Sys2Proof.Machine
end

