-- ==== Sys2Proof/Machine/Step.lean ====
section
/-! DEFINITION. One step of the core (R49, R50). -/

namespace Sys2Proof.Machine

/-- One step: reset where `rst` is applied, else the command presented on the command port, else nothing. -/
def step (s : State) : Host.Outcome State Fault Refusal := stepWith exec s

/-- The state with the command whose bits are `w` presented on the command port, which is where a step takes its
command from (R3, R60; log entry 6). -/
def State.withFetchWord (s : State) (nbits w : Nat) : State :=
  s.presentWord (BitVec.ofNat 32 (w % 2 ^ nbits))

end Sys2Proof.Machine
end

