-- ==== Sys2Proof/Machine/Address.lean ====
section
/-! DEFINITION. The host-side syntax of bit addresses (30_encoding.md, section 8). The core never parses text (R7); a
text is a list of characters here. -/

namespace Sys2Proof.Machine

/-- A resolved bit address (R92, R93). -/
structure BitAddress where
  byteIndex : Nat
  bitIndex : Nat
deriving DecidableEq, Repr

/-- The whitespace set: space, tab, LF, VT, FF and CR (R90; D25). -/
def isBlank (c : Char) : Bool := [0x20, 0x09, 0x0A, 0x0B, 0x0C, 0x0D].contains c.toNat

/-- Strip leading and trailing whitespace (R90). -/
def trimText (t : List Char) : List Char :=
  ((t.dropWhile isBlank).reverse.dropWhile isBlank).reverse

/-- Map a lowercase letter to uppercase, ASCII letters only (R90; log entry 9). -/
def upperChar (c : Char) : Char :=
  if 0x61 ≤ c.toNat ∧ c.toNat ≤ 0x7A then Char.ofNat (c.toNat - 0x20) else c

/-- Normalisation: trim, uppercase, and prepend `I` if the first character is not `I` (R90). -/
def normaliseAddress (t : List Char) : List Char :=
  match (trimText t).map upperChar with
  | 'I' :: rest => 'I' :: rest
  | u => 'I' :: u

/-- An ASCII digit (R91; D25). -/
def isDecDigit (c : Char) : Bool := decide (0x30 ≤ c.toNat) && decide (c.toNat ≤ 0x39)

/-- The bit component's one digit, 0..7 (R91). -/
def isBitDigit (c : Char) : Bool := decide (0x30 ≤ c.toNat) && decide (c.toNat ≤ 0x37)

/-- The value of a digit. -/
def digitValue (c : Char) : Nat := c.toNat - 0x30

/-- The number a digit string stands for; leading zeros are allowed (R91). -/
def decimalValue (ds : List Char) : Nat := ds.foldl (fun n c => 10 * n + digitValue c) 0

/-- `I<n>` resolves to `(n div 8, 7 - n mod 8)` (R93). -/
def flatAddress (n : Nat) : BitAddress := { byteIndex := n / 8, bitIndex := 7 - n % 8 }

/-- The grammar `"I" [0-9]+ ("." [0-7])?` on a normalised text (R91 to R93). -/
def parseAddress (t : List Char) : Except Status BitAddress :=
  match t with
  | 'I' :: rest =>
    let ds := rest.takeWhile isDecDigit
    if ds.isEmpty then .error .addressMalformed
    else
      match rest.dropWhile isDecDigit with
      | [] => .ok (flatAddress (decimalValue ds))
      | ['.', j] =>
        if isBitDigit j then .ok { byteIndex := decimalValue ds, bitIndex := digitValue j }
        else .error .addressMalformed
      | _ => .error .addressMalformed
  | _ => .error .addressMalformed

/-- The Address Resolver: a pure function of the text (R90 to R94). -/
def resolveAddress (t : List Char) : Except Status BitAddress := parseAddress (normaliseAddress t)

end Sys2Proof.Machine
end

