-- ==== Sys2Proof/Machine/Requests.lean ====
section
/-! DEFINITION. What a host sends: commands, reset, the pseudo-commands of rule R72, and the completion of partial
configuration documents (R127). -/

namespace Sys2Proof.Machine

/-- One thing a host does to the core's inputs (R60). -/
inductive Request where
  /-- A command word with what it puts on the data-in port. -/
  | command (w : CmdWord) (p : Payload)
  /-- The reset input, with no command in progress. -/
  | reset
  /-- The reset input applied while a command is in progress (R231). -/
  | resetOver (w : CmdWord) (p : Payload)
deriving DecidableEq, Repr

/-- The core's inputs as a request drives them (R60). -/
def State.drive (r : Request) (s : State) : State :=
  match r with
  | .command w p => { s.present w p with rst := false }
  | .reset => { s with cmd := none, rst := true }
  | .resetOver w p => { s.present w p with rst := true }

/-- The request that issues a command. -/
def issue (i : Instr) (p : Payload) : Request := .command (encode i) p

/-- The pseudo-commands (R72). -/
inductive Pseudo where
  | route (k o : Nat)
  | unroute (k : Nat)
  | latchOn (k : Nat)
  | latchOff (k : Nat)
  | identity
  | clearTable
  | readSignalAt (addr : List Char) (p : List Byte)
deriving DecidableEq, Repr

/-- What a pseudo-command comes to on the host (R72, R94). -/
inductive Expansion where
  /-- Commands to issue, in order. -/
  | commands (rs : List Request)
  /-- A bit the host yields without issuing a command (R172). -/
  | yields (b : Bit)
  /-- A failure reported on the host; no command is issued (R94). -/
  | failed (e : Status)
  /-- An operand does not fit its field, so no command word carries it: the host issues nothing (log entry 17, the
  model's choice). -/
  | unencodable
deriving DecidableEq, Repr

/-- `IDENTITY`'s table: word `i` is `(i << 8) | 0b10` (R72). -/
def identityTable : TableWords := Vector.ofFn fun k => defaultWord k ||| 0b10

/-- Commands without a payload, issued in order, where every operand fits its field (R65). Where one does not, nothing is
issued: R72 does not say what the host does with `k` or `o` above 255 (log entry 17, the model's choice). -/
def issueAll (is : List Instr) : Expansion :=
  if is.all Instr.wellFormed then .commands (is.map fun i => issue i .none) else .unencodable

/-- The expansion of a pseudo-command into core commands (R72, R172). -/
def expandPseudo : Pseudo → Expansion
  | .route k o => issueAll [.setOutput k o, .setEnabled k true]
  | .unroute k => issueAll [.setEnabled k false]
  | .latchOn k => issueAll [.setLatch k true]
  | .latchOff k => issueAll [.setLatch k false]
  | .identity => .commands [issue .loadTable (.table identityTable)]
  | .clearTable => .commands [issue .loadTable (.table defaultTable)]
  | .readSignalAt addr p =>
    match resolveAddress addr with
    | .error e => .failed e
    | .ok a =>
      if 255 < a.byteIndex then .yields false
      else .commands [issue (.readSignal a.byteIndex a.bitIndex) (.bytes p)]

/-- One entry of a configuration document; a field may be missing (R127). R127 speaks of an entry's own index outside
0..191 and not of its output: here an output is one of 0..191 by its type, and a document with any other has no term (log
entry 18, the model's choice). -/
structure PartialEntry where
  /-- The input bit the entry is for; the host skips an index outside 0..191. -/
  index : Nat
  out : Option OutIdx
  en : Option Bit
  lt : Option Bit
deriving DecidableEq, Repr

/-- An entry completed with the defaults `output = input_bit, enabled = false, latch = false` (R127). -/
def completeEntry (k : InIdx) (e : PartialEntry) : RouteEntry :=
  { out := e.out.getD k, en := e.en.getD false, lt := e.lt.getD false }

/-- The entry a document gives input bit `k`: the last one for that index (log entry 11), or the default (R127). -/
def documentEntry (doc : List PartialEntry) (k : InIdx) : RouteEntry :=
  match doc.reverse.find? fun e => e.index == k.val with
  | some e => completeEntry k e
  | none => RouteEntry.reset k

/-- The LOAD_TABLE payload the host builds from a configuration document (R127). -/
def documentTable (doc : List PartialEntry) : TableWords := Vector.ofFn fun k => entryWord (documentEntry doc k)

/-- The boot sequence: reset, then the routing configuration in one LOAD_TABLE (R233). -/
def bootRequests (doc : List PartialEntry) : List Request :=
  [.reset, issue .loadTable (.table (documentTable doc))]

end Sys2Proof.Machine
end

