-- ==== Sys2Proof/Machine/Assembler.lean ====
section
/-! DEFINITION. The text of a command (R71): its mnemonic, comma-separated operands, and a bracketed payload. What the
rule leaves open of the text is in log entry 10. -/

namespace Sys2Proof.Machine

/-- The value of a hex digit, of either case. -/
def hexDigit (c : Char) : Option Nat :=
  let u := (upperChar c).toNat
  if isDecDigit c then some (digitValue c)
  else if 0x41 ≤ u ∧ u ≤ 0x46 then some (u - 0x37) else none

/-- The number a text of hex digits stands for; there must be one at least. -/
def hexNumber (t : List Char) : Option Nat :=
  if t.isEmpty then none
  else t.foldl (fun n c => do return 16 * (← n) + (← hexDigit c)) (some 0)

/-- A number in decimal or with `0x` in hex (R71). -/
def parseNumber (t : List Char) : Option Nat :=
  match t with
  | '0' :: 'x' :: ds => hexNumber ds
  | ds => if !ds.isEmpty && ds.all isDecDigit then some (decimalValue ds) else none

/-- A byte of a bracketed hex byte list, with or without `0x` (R71). -/
def parseByte (t : List Char) : Option Byte :=
  let digits := match t with
    | '0' :: 'x' :: ds => ds
    | ds => ds
  match hexNumber digits with
  | some n => if n < 256 then some (BitVec.ofNat 8 n) else none
  | none => none

/-- An entry word of a bracketed table payload (R68, R71). -/
def parseEntryWord (t : List Char) : Option EntryWord :=
  match parseNumber t with
  | some n => if n < 65536 then some (BitVec.ofNat 16 n) else none
  | none => none

/-- A flag operand, 0 or 1 (R65). -/
def flagOperand : Nat → Option Bit
  | 0 => some false
  | 1 => some true
  | _ => none

/-- The pieces of a text between commas, each trimmed; a blank text has none. -/
def commaPieces (t : List Char) : List (List Char) :=
  if (trimText t).isEmpty then [] else (t.splitOn ',').map trimText

/-- The text between the brackets, where the text is a bracketed list. -/
def bracketed (t : List Char) : Option (List Char) :=
  match (trimText t).reverse with
  | ']' :: body => some body.reverse
  | _ => none

/-- The operand texts before a payload: the last comma stands before the bracket (R71). With no operand there is no
comma either: a lone comma before the bracket makes the line no command (log entry 10, the model's choice). -/
def operandsBefore (t : List Char) : Option (List (List Char)) :=
  let u := trimText t
  if u.isEmpty then some []
  else
    match u.reverse with
    | ',' :: front =>
      match commaPieces front.reverse with
      | [] => none
      | ops => some ops
    | _ => none

/-- A table payload from its words: exactly 192 of them (R68). -/
def tableOfList (ws : List EntryWord) : Option Payload :=
  if h : ws.length = 192 then some (.table ⟨ws.toArray, by simpa using h⟩) else none

/-- A command with no payload, from its mnemonic and operands (R71). -/
def plainCommand (mnemonic : List Char) (ops : List Nat) : Option Instr :=
  match String.ofList mnemonic, ops with
  | "SET_OUTPUT", [k, o] => some (.setOutput k o)
  | "SET_ENABLED", [k, e] => (flagOperand e).map (.setEnabled k)
  | "SET_LATCH", [k, l] => (flagOperand l).map (.setLatch k)
  | "READ_ENTRY", [k] => some (.readEntry k)
  | "READ_LATCH", [k] => some (.readLatch k)
  | _, _ => none

/-- A command with a payload, from its mnemonic, its operands and the pieces of its payload (R71). -/
def payloadCommand (mnemonic : List Char) (ops : List Nat) (pieces : List (List Char)) : Option (Instr × Payload) :=
  let bytes := (pieces.mapM parseByte).map Payload.bytes
  match String.ofList mnemonic, ops with
  | "LOAD_TABLE", [] => ((pieces.mapM parseEntryWord).bind tableOfList).map fun p => (.loadTable, p)
  | "PROCESS", [] => bytes.map fun p => (.process, p)
  | "READ_SIGNAL", [bi, j] => bytes.map fun p => (.readSignal bi j, p)
  | "CRC16", [] => bytes.map fun p => (.crc16, p)
  | "CRC_CHECK", [] => bytes.map fun p => (.crcCheck, p)
  | _, _ => none

/-- One line of text to the command it stands for, where its operands fit their fields (R65, R71). It takes the ten
commands of R71 and not the text of a pseudo-command, which `Pseudo` stands for (R72; log entry 10, the model's
choice). -/
def assembleInstr (line : List Char) : Option (Instr × Payload) :=
  let t := trimText line
  let mnemonic := t.takeWhile fun c => !isBlank c
  let rest := t.dropWhile fun c => !isBlank c
  let parsed :=
    if rest.contains '[' then do
      let ops ← (← operandsBefore (rest.takeWhile (· != '['))).mapM parseNumber
      let body ← bracketed ((rest.dropWhile (· != '[')).drop 1)
      payloadCommand mnemonic ops (commaPieces body)
    else do
      let ops ← (commaPieces rest).mapM parseNumber
      return (← plainCommand mnemonic ops, Payload.none)
  parsed.filter fun c => c.1.wellFormed

/-- One line of text to the request that issues its command (R71). -/
def assemble (line : List Char) : Option Request :=
  (assembleInstr line).map fun c => issue c.1 c.2

end Sys2Proof.Machine
end

