-- ==== Sys2Proof/Machine/Session.lean ====
section
/-! DEFINITION. Sequences of requests to one core (R50), and several hosts that share it (R51, R213). -/

namespace Sys2Proof.Machine

/-- The step of rule R31: one command word and its payload on the core's state, with the configuration as a parameter. It
answers the core's next state and the response, and nothing where the command is not whole (log entry 5). -/
def commandOn (cfg : Config) (w : CmdWord) (p : Payload) (c : CoreState) : Option (CoreState × Response) :=
  match step { State.reset with toCoreState := c, cmd := some w, dataIn := p, cfg := cfg } with
  | .next t => t.resp.map fun r => (t.toCoreState, r)
  | _ => none

/-- The host drives the core's inputs and the core takes one step (R50, R241 (a)). -/
def serveOne (r : Request) (s : State) : Result := step (s.drive r)

/-- A sequence of requests, each completed before the next is accepted: the last state and every step's response, in
order (R50). -/
def serve : List Request → State → Option (State × List (Option Response))
  | [], s => some (s, [])
  | r :: rs, s =>
    match serveOne r s with
    | .next t => (serve rs t).map fun q => (q.1, t.resp :: q.2)
    | _ => none

/-- `Interleaving streams rs`: the requests `rs` are the hosts' streams, each in its own order, taken in some order
between them. The core fixes no such order (R51, U9). -/
inductive Interleaving : List (List Request) → List Request → Prop where
  | done {streams : List (List Request)} : (∀ t ∈ streams, t = []) → Interleaving streams []
  | next {before after : List (List Request)} {t rs : List Request} {r : Request} :
      Interleaving (before ++ t :: after) rs → Interleaving (before ++ (r :: t) :: after) (r :: rs)

/-- What the core may do for several hosts: the result of rule R50 for some interleaving (R51). -/
def hostsMayReach (streams : List (List Request)) (s : State) (q : State × List (Option Response)) : Prop :=
  ∃ rs, Interleaving streams rs ∧ serve rs s = some q

end Sys2Proof.Machine
end

