-- ==== Sys2Proof/Safety.lean ====
section
/-! DEFINITION. The terms the claims use: a well-formed response, a whole command, a good state, the bits of a frame and
the value an entry writes. -/

namespace Sys2Proof.Machine

/-- A frame as PROCESS returns it: 28 bytes, marker, status byte, and a checksum that CRC_CHECK finds right (R82,
R146). -/
abbrev frameSigned (order : CrcOrder) (f : List Byte) : Prop :=
  f.length = outLen ∧ f[0]? = some outMark ∧ f[25]? = some statusByte ∧
    crcCheck order f = .ok (true, crc16 (f.take 26))

/-- A response the core may give: an error carries no data and is never `AddressMalformed` (R69, R200), and a frame it
returns is signed (R146). -/
abbrev responseGood (cfg : Config) (r : Response) : Prop :=
  r.st ≠ .addressMalformed ∧ (r.st ≠ .ok → r.data = .none) ∧
    ∀ f, r.data = .frame f → frameSigned cfg.crcOrder f

/-- The invariant of the machine: a legal configuration (R9) and a good response on the response port, if any. The
bound on `RT[k].out` (R21) holds by its type (R31). -/
def State.Inv (s : State) : Prop :=
  s.cfg.wf ∧ ∀ r, s.resp = some r → responseGood s.cfg r

/-- The command presented, if any, is whole: the data-in port carries the payload its opcode calls for, within
`MAX_PAYLOAD` (R60, R67, U12). -/
def State.commandWhole (s : State) : Prop :=
  ∀ w i, s.cmd = some w → decode w = some i → payloadFits s.cfg (payloadKind i) s.dataIn = true

/-- A request whose command is whole (R60, R67, U12). -/
def requestWhole (cfg : Config) : Request → Prop
  | .command w p => ∀ i, decode w = some i → payloadFits cfg (payloadKind i) p = true
  | .reset => True
  | .resetOver w p => ∀ i, decode w = some i → payloadFits cfg (payloadKind i) p = true

/-- The commands that write neither `RT` nor `LS` (R101, R102, R124, R125, R170). -/
def readOnly : Instr → Bool
  | .readEntry _ => true
  | .readLatch _ => true
  | .readSignal _ _ => true
  | .crc16 => true
  | .crcCheck => true
  | .setOutput _ _ => false
  | .setEnabled _ _ => false
  | .setLatch _ _ => false
  | .loadTable => false
  | .process => false

/-- A request that only observes: a command that writes neither register file, or a word that is no command (R66,
R214). -/
def requestObserves : Request → Bool
  | .command w _ => match decode w with
    | some i => readOnly i
    | none => true
  | .reset => false
  | .resetOver _ _ => false

/-- Everything but the two register files and the response port is as it was. -/
def sameInputs (s t : State) : Prop :=
  t.cmd = s.cmd ∧ t.dataIn = s.dataIn ∧ t.rst = s.rst ∧ t.cfg = s.cfg ∧ t.draws = s.draws

/-- The response of a command that completed with `data` (R69). -/
def okWith (data : ResultData) : Option Response := some { st := .ok, data := data }

/-- Output bit `o` of the output data buffer: bit `7 - o mod 8` of `D[o div 8]` (R42). -/
def dataBit (d : DataBuf) (o : OutIdx) : Bit := getbit d[o.val / 8] (7 - o.val % 8)

/-- Output bit `o` of an outbound frame: bit `7 - o mod 8` of byte `1 + o div 8` (R41). -/
def frameBit (f : List Byte) (o : OutIdx) : Bit := getbit (f.getD (1 + o.val / 8) 0) (7 - o.val % 8)

/-- The value an enabled entry writes: its input bit where its latch is off, and where it is on its cell's toggle,
flipped if the input bit rises (R142). -/
def entryValue (s : State) (f : InFrame) (k : InIdx) : Bit :=
  if s.rt[k].lt then
    if s.ls[k].prev = false ∧ inBit f k = true then !s.ls[k].tog else s.ls[k].tog
  else inBit f k

/-- Entry `k` is enabled and targets output bit `o`, and no enabled entry after it does (R143). -/
def lastToTarget (rt : RoutingTable) (o : OutIdx) (k : InIdx) : Prop :=
  rt[k].en = true ∧ rt[k].out = o ∧ ∀ j : InIdx, k < j → rt[j].en = true → rt[j].out ≠ o

/-- How many rising edges a sequence of samples has after a previous sample (R14, R145). -/
def risingEdges : Bit → List Bit → Nat
  | _, [] => 0
  | prev, cur :: rest => (if !prev && cur then 1 else 0) + risingEdges cur rest

end Sys2Proof.Machine
end

