-- ==== Sys2Proof/Certificates/Slice0/Obligations.lean ====
section
/-! DEFINITION. The statements for the provers. Each docstring names the rules of spec/ a statement formalises. -/

open Sys2Proof Sys2Proof.Machine

/-! ### Encoding -/

/-- Every well-formed command decodes from its encoding, every operand at every value its field admits (R61 to R65). -/
def Obligations.DecodeAfterEncodeIsIdentity : Prop :=
  ∀ i : Instr, i.wellFormed = true → decode (encode i) = some i

/-- A word that decodes at all is the encoding of the command it decodes to, so no bit of a word is ignored (R63, R64,
R66). -/
def Obligations.EncodeAfterDecodeIsIdentity : Prop :=
  ∀ (w : CmdWord) (i : Instr), decode w = some i → i.wellFormed = true ∧ encode i = w

/-- No word matches two rows of the encoding table (R63). -/
def Obligations.NoWordMatchesTwoRows : Prop :=
  rows.Pairwise fun r q => ∀ w : CmdWord, ¬ (r.selects w = true ∧ q.selects w = true)

/-- Words written out from the encoding table and the spec's own examples decode to the commands they stand for (R63,
R71). -/
def Obligations.ExampleWordsDecode : Prop :=
  decode 0x10514000 = some (.setOutput 5 20) ∧ decode 0x1C000000 = some (.setOutput 192 0) ∧
    decode 0x20000001 = some (.setEnabled 0 true) ∧ decode 0x30500001 = some (.setLatch 5 true) ∧
    decode 0x40000000 = some .loadTable ∧ decode 0x5BF00000 = some (.readEntry 191) ∧
    decode 0x60500000 = some (.readLatch 5) ∧ decode 0x70000000 = some .process ∧
    decode 0x80105000 = some (.readSignal 1 5) ∧ decode 0x90000000 = some .crc16 ∧
    decode 0xA0000000 = some .crcCheck ∧ decode 0x00000000 = none ∧ decode 0x80008000 = none

/-- A word that matches no row completes with `IllegalCommand` and changes no register, the reserved opcodes match no
row, and neither does any word that is not the encoding of a command, such as one with a nonzero bit in a field marked
"0" (R66). -/
def Obligations.IllegalWordRespondsAndWritesNothing : Prop :=
  (∀ (s : State) (w : CmdWord), s.rst = false → s.cmd = some w → (∀ r ∈ rows, r.selects w = false) →
    ∃ t, step s = .next t ∧ t.resp = some { st := .illegalCommand, data := .none } ∧ t.rt = s.rt ∧ t.ls = s.ls) ∧
  (∀ w : CmdWord, (w.extractLsb' 28 4 = 0 ∨ 0xB ≤ (w.extractLsb' 28 4).toNat) → ∀ r ∈ rows, r.selects w = false) ∧
  (∀ w : CmdWord, (∀ i : Instr, i.wellFormed = true → encode i ≠ w) → ∀ r ∈ rows, r.selects w = false)

/-! ### The step -/

/-- A step with no reset runs the command its word decodes to, on the state with the word taken off the command port
and the earlier response gone; nothing else differs in that state (R50, R64, R202). The model's choices in this: that the word is
taken off the command port (log entry 7), that the earlier response goes (log entry 1) and that the payload stays (log
entry 8). -/
def Obligations.StepRunsTheDecodedCommand : Prop :=
  ∀ (s : State) (w : CmdWord) (i : Instr), s.rst = false → s.cmd = some w → decode w = some i →
    step s = exec i s.accept ∧ s.accept.cmd = none ∧ s.accept.resp = none ∧ s.accept.rt = s.rt ∧
      s.accept.ls = s.ls ∧ s.accept.dataIn = s.dataIn ∧ s.accept.rst = s.rst ∧ s.accept.cfg = s.cfg ∧
      s.accept.draws = s.draws

/-- With no command and no reset the registers and the inputs stay and no response is given (R208). That an earlier
response does not stay on the response port is the model's choice (log entries 1 and 7). -/
def Obligations.StepWithoutCommandIsIdle : Prop :=
  ∀ s : State, s.rst = false → s.cmd = none →
    ∃ t, step s = .next t ∧ t.rt = s.rt ∧ t.ls = s.ls ∧ t.resp = none ∧ sameInputs s t

/-- The command placed for the next step is the one it runs, for every well-formed command and from every state; the
payload placed with it is one its opcode calls for (R60, R67; log entry 6, the model's choice). -/
def Obligations.PlacedCommandIsRunNext : Prop :=
  ∀ (s : State) (i : Instr), i.wellFormed = true →
    ∃ t, step (s.withFetchWord 32 (encode i).toNat) = .next t ∧
      exec i (s.withFetchWord 32 (encode i).toNat).accept = .next t ∧
      (s.withFetchWord 32 (encode i).toNat).commandWhole ∧
      (s.withFetchWord 32 (encode i).toNat).rt = s.rt ∧ (s.withFetchWord 32 (encode i).toNat).ls = s.ls

/-! ### Reset -/

/-- The state after reset: every entry is its own default and every latch cell is clear, no command is presented and no
response stands (R20, R24, R230). The latch cells' value is the spec's own choice (D18); the empty ports are the model's
(log entry 1). -/
def Obligations.ResetStateHoldsResetValues : Prop :=
  (∀ k : InIdx, State.reset.rt[k] = { out := k, en := false, lt := false }) ∧
    (∀ k : InIdx, State.reset.ls[k] = { prev := false, tog := false }) ∧
    State.reset.cmd = none ∧ State.reset.resp = none ∧ State.reset.rst = false

/-- Reset applied with no command in progress, in any state: every register takes its reset value and no response is
given (R230; the latch cells' value is the spec's own choice, D18; that the step releases `rst` is the model's, log
entry 7). -/
def Obligations.ResetGivesEveryRegisterItsResetValue : Prop :=
  ∀ s : State, s.rst = true → s.cmd = none →
    ∃ t, step s = .next t ∧ (∀ k : InIdx, t.rt[k] = { out := k, en := false, lt := false }) ∧
      (∀ k : InIdx, t.ls[k] = { prev := false, tog := false }) ∧ t.resp = none ∧ t.rst = false ∧ t.cmd = none ∧
      t.cfg = s.cfg

/-- Reset over a command in progress: the registers take their reset values, and the response port carries either no
response (the command was abandoned) or the response the command gives where it completes (R231). Which of the two
happens is a free value (log entry 3). That the step releases `rst` and frees the command port is the model's choice (log
entry 7). -/
def Obligations.ResetOverACommandCompletesOrAbandonsIt : Prop :=
  ∀ (s : State) (w : CmdWord), s.rst = true → s.cmd = some w → s.commandWhole →
    ∃ t, step s = .next t ∧ (∀ k : InIdx, t.rt[k] = { out := k, en := false, lt := false }) ∧
      (∀ k : InIdx, t.ls[k] = { prev := false, tog := false }) ∧ t.rst = false ∧ t.cmd = none ∧
      (t.resp = none ∨ ∃ u, step { s with rst := false } = .next u ∧ u.resp ≠ none ∧ t.resp = u.resp)

/-- Boot from any state, power-on included: reset and one LOAD_TABLE of a configuration document leave every entry as
the document gives it, missing fields at their defaults, and every latch cell clear (R127, R232, R233). That the last of
two entries for one index holds is the model's choice (log entry 11). -/
def Obligations.BootLoadsTheConfigurationDocument : Prop :=
  ∀ (s : State) (doc : List PartialEntry),
    ∃ t, serve (bootRequests doc) s = some (t, [none, okWith .none]) ∧
      (∀ k : InIdx, t.rt[k] = documentEntry doc k) ∧
      (∀ k : InIdx, (∀ e ∈ doc, e.index ≠ k.val) → t.rt[k] = { out := k, en := false, lt := false }) ∧
      (∀ k : InIdx, t.ls[k] = { prev := false, tog := false })

/-! ### Routing table and latch store commands -/

/-- SET_OUTPUT with both indices in range (R120). -/
def Obligations.SetOutputWritesTheTarget : Prop :=
  ∀ (s : State) (k : InIdx) (o : OutIdx),
    ∃ t, exec (.setOutput k.val o.val) s = .next t ∧
      t.rt[k] = { out := o, en := s.rt[k].en, lt := s.rt[k].lt } ∧
      (∀ j : InIdx, j ≠ k → t.rt[j] = s.rt[j]) ∧ t.ls = s.ls ∧ t.resp = okWith .none ∧ sameInputs s t

/-- SET_ENABLED with its index in range (R121): the latch cell is not touched in either direction. -/
def Obligations.SetEnabledWritesTheFlag : Prop :=
  ∀ (s : State) (k : InIdx) (e : Bit),
    ∃ t, exec (.setEnabled k.val e) s = .next t ∧
      t.rt[k] = { out := s.rt[k].out, en := e, lt := s.rt[k].lt } ∧
      (∀ j : InIdx, j ≠ k → t.rt[j] = s.rt[j]) ∧ t.ls = s.ls ∧ t.resp = okWith .none ∧ sameInputs s t

/-- SET_LATCH with its index in range (R122): the cell is cleared on a transition from 0 to 1 and kept otherwise. -/
def Obligations.SetLatchClearsOnTransitionOnly : Prop :=
  ∀ (s : State) (k : InIdx) (l : Bit),
    ∃ t, exec (.setLatch k.val l) s = .next t ∧
      t.rt[k] = { out := s.rt[k].out, en := s.rt[k].en, lt := l } ∧
      (∀ j : InIdx, j ≠ k → t.rt[j] = s.rt[j] ∧ t.ls[j] = s.ls[j]) ∧
      (s.rt[k].lt = false → l = true → t.ls[k] = { prev := false, tog := false }) ∧
      ((s.rt[k].lt = true ∨ l = false) → t.ls[k] = s.ls[k]) ∧ t.resp = okWith .none ∧ sameInputs s t

/-- READ_ENTRY with its index in range answers the entry word `{out, 0b000000, en, lt}` and writes no register (R68,
R124). -/
def Obligations.ReadEntryAnswersTheEntryWord : Prop :=
  ∀ (s : State) (k : InIdx),
    ∃ (t : State) (w : EntryWord), exec (.readEntry k.val) s = .next t ∧ t.resp = okWith (.entry w) ∧
      (w.extractLsb' 8 8).toNat = s.rt[k].out.val ∧ w.extractLsb' 2 6 = 0 ∧
      w.getLsbD 1 = s.rt[k].en ∧ w.getLsbD 0 = s.rt[k].lt ∧ t.rt = s.rt ∧ t.ls = s.ls ∧ sameInputs s t

/-- READ_LATCH with its index in range answers `r[1] = prev`, `r[0] = tog` and writes no register (R125). -/
def Obligations.ReadLatchAnswersTheCell : Prop :=
  ∀ (s : State) (k : InIdx),
    ∃ (t : State) (r : BitVec 2), exec (.readLatch k.val) s = .next t ∧ t.resp = okWith (.latch r) ∧
      r.getLsbD 1 = s.ls[k].prev ∧ r.getLsbD 0 = s.ls[k].tog ∧ t.rt = s.rt ∧ t.ls = s.ls ∧ sameInputs s t

/-- An index above 191 responds `RoutingIndexOutOfRange` and writes nothing, in each command that takes one; in
SET_OUTPUT either index may be the one out of range (R120 to R122, R124, R125, R205). -/
def Obligations.IndexOutOfRangeRaises : Prop :=
  ∀ (s : State) (k j : Nat) (e : Bit), 191 < k →
    ∃ t, t.resp = some { st := .routingIndexOutOfRange, data := .none } ∧ t.rt = s.rt ∧ t.ls = s.ls ∧
      sameInputs s t ∧ exec (.setOutput k j) s = .next t ∧ exec (.setOutput j k) s = .next t ∧
      exec (.setEnabled k e) s = .next t ∧ exec (.setLatch k e) s = .next t ∧
      exec (.readEntry k) s = .next t ∧ exec (.readLatch k) s = .next t

/-- LOAD_TABLE with no reserved bit set and every OUT in range replaces every entry, and clears exactly the latch cells
whose flag goes from 0 to 1 (R123). -/
def Obligations.LoadTableReplacesEveryEntry : Prop :=
  ∀ (s : State) (w : TableWords), s.dataIn = .table w →
    (∀ k : InIdx, w[k].extractLsb' 2 6 = 0) → (∀ k : InIdx, (w[k].extractLsb' 8 8).toNat ≤ 191) →
    ∃ t, exec .loadTable s = .next t ∧
      (∀ k : InIdx, t.rt[k].out.val = (w[k].extractLsb' 8 8).toNat ∧ t.rt[k].en = w[k].getLsbD 1 ∧
        t.rt[k].lt = w[k].getLsbD 0) ∧
      (∀ k : InIdx, s.rt[k].lt = false → w[k].getLsbD 0 = true → t.ls[k] = { prev := false, tog := false }) ∧
      (∀ k : InIdx, (s.rt[k].lt = true ∨ w[k].getLsbD 0 = false) → t.ls[k] = s.ls[k]) ∧
      t.resp = okWith .none ∧ sameInputs s t

/-- LOAD_TABLE with a reserved bit set anywhere responds `IllegalCommand`; with none set and an OUT above 191 it
responds `RoutingIndexOutOfRange`. Neither changes an entry or a latch cell (R123, R205). -/
def Obligations.LoadTableRejectsABadTableWhole : Prop :=
  ∀ (s : State) (w : TableWords), s.dataIn = .table w →
    ((∃ k : InIdx, w[k].extractLsb' 2 6 ≠ 0) →
      ∃ t, exec .loadTable s = .next t ∧ t.resp = some { st := .illegalCommand, data := .none } ∧
        t.rt = s.rt ∧ t.ls = s.ls ∧ sameInputs s t) ∧
    ((∀ k : InIdx, w[k].extractLsb' 2 6 = 0) → (∃ k : InIdx, 191 < (w[k].extractLsb' 8 8).toNat) →
      ∃ t, exec .loadTable s = .next t ∧ t.resp = some { st := .routingIndexOutOfRange, data := .none } ∧
        t.rt = s.rt ∧ t.ls = s.ls ∧ sameInputs s t)

/-- The 192 results of READ_ENTRY, presented to LOAD_TABLE, load, and leave the table and every latch cell as they were
(R126). -/
def Obligations.LoadingTheReadTableChangesNothing : Prop :=
  ∀ (s : State) (w : TableWords), s.dataIn = .table w →
    (∀ k : InIdx, exec (.readEntry k.val) s = respond (.entry w[k]) s) →
    ∃ t, exec .loadTable s = .next t ∧ t.resp = okWith .none ∧ t.rt = s.rt ∧ t.ls = s.ls ∧ sameInputs s t

/-! ### PROCESS -/

/-- PROCESS on a valid frame completes: it writes no routing entry and answers the frame of the loop over all 192
entries, whose latch store it keeps (R140). -/
def Obligations.ProcessCompletesOnAValidFrame : Prop :=
  ∀ (s : State) (f : InFrame), s.dataIn = .bytes f.bytes → f.bytes.length ≤ s.cfg.maxPayload →
    ∃ t, exec .process s = .next t ∧
      t.resp = okWith (.frame (outFrame s.cfg.crcOrder (routeFrame s.rt f s.ls).data)) ∧
      t.ls = (routeFrame s.rt f s.ls).ls ∧ t.rt = s.rt ∧ sameInputs s t

/-- A payload shorter than 25 bytes responds `FrameTooShort`, whatever its first byte; a longer one whose first byte is
not 0x5A responds `InvalidMarker`. No register changes (R206). -/
def Obligations.ProcessRejectsAnInvalidFrame : Prop :=
  ∀ (s : State) (p : List Byte), s.dataIn = .bytes p → p.length ≤ s.cfg.maxPayload →
    (p.length < 25 → ∃ t, exec .process s = .next t ∧
      t.resp = some { st := .frameTooShort, data := .none } ∧ t.rt = s.rt ∧ t.ls = s.ls ∧ sameInputs s t) ∧
    (25 ≤ p.length → p[0]? ≠ some 0x5A → ∃ t, exec .process s = .next t ∧
      t.resp = some { st := .invalidMarker, data := .none } ∧ t.rt = s.rt ∧ t.ls = s.ls ∧ sameInputs s t)

/-- After PROCESS, the cell of an entry that is enabled and latched is the edge detector's: the rising edge XORs the
toggle and the sample shifts in. Every other cell keeps its value (R142, R145). -/
def Obligations.ProcessStepsEveryEdgeDetector : Prop :=
  ∀ (s : State) (f : InFrame), s.dataIn = .bytes f.bytes → f.bytes.length ≤ s.cfg.maxPayload →
    ∃ t, exec .process s = .next t ∧ ∀ k : InIdx,
      ((s.rt[k].en = true ∧ s.rt[k].lt = true) →
        t.ls[k] = { prev := inBit f k, tog := s.ls[k].tog ^^ (inBit f k && !s.ls[k].prev) }) ∧
      ((s.rt[k].en = false ∨ s.rt[k].lt = false) → t.ls[k] = s.ls[k])

/-- The routing loop refines a multiplexer per output bit: an output bit that no enabled entry targets is 0, and one
that some do has the value of the last of them in ascending order, whatever that value is (R142, R143). -/
def Obligations.ProcessRoutesLastEnabledEntryToEachOutput : Prop :=
  ∀ (s : State) (f : InFrame), s.dataIn = .bytes f.bytes → f.bytes.length ≤ s.cfg.maxPayload →
    ∃ t F, exec .process s = .next t ∧ t.resp = okWith (.frame F) ∧ ∀ o : OutIdx,
      ((∀ k : InIdx, s.rt[k].en = true → s.rt[k].out ≠ o) → frameBit F o = false) ∧
      (∀ k : InIdx, lastToTarget s.rt o k → frameBit F o = entryValue s f k)

/-- The outbound frame has 28 bytes: the marker, 24 data bytes, the status byte, and the checksum of the first 26 bytes
in `CRC_ORDER` (R82, R83). -/
def Obligations.ProcessFrameHasTheOutboundLayout : Prop :=
  ∀ (s t : State) (F : List Byte), exec .process s = .next t → t.resp = okWith (.frame F) →
    F.length = 28 ∧ F[0]? = some 0xA5 ∧ F[25]? = some 0x01 ∧
      (s.cfg.crcOrder = .hiFirst → F[26]? = some ((crc16 (F.take 26)).extractLsb' 8 8) ∧
        F[27]? = some ((crc16 (F.take 26)).extractLsb' 0 8)) ∧
      (s.cfg.crcOrder = .loFirst → F[26]? = some ((crc16 (F.take 26)).extractLsb' 0 8) ∧
        F[27]? = some ((crc16 (F.take 26)).extractLsb' 8 8))

/-- Every frame PROCESS returns passes CRC_CHECK under the same configuration: `MATCH = 1`, and the checksum is that of
its first 26 bytes (R146). -/
def Obligations.ProcessFramePassesCrcCheck : Prop :=
  ∀ (s t u : State) (F : List Byte), exec .process s = .next t → t.resp = okWith (.frame F) →
    u.cfg = s.cfg → u.cfg.wf → u.dataIn = .bytes F →
    ∃ (v : State) (r : BitVec 17), exec .crcCheck u = .next v ∧ v.resp = okWith (.crcCheck r) ∧
      r.getLsbD 16 = true ∧ r.extractLsb' 0 16 = crc16 (F.take 26)

/-- Disabling entry `k`, all else unchanged, changes no output bit but the one it targets; that one becomes 0, or the
value of the last other enabled entry that targets it (R147). -/
def Obligations.DisablingAnEntryFreesItsOutputOnly : Prop :=
  ∀ (s : State) (f : InFrame) (k : InIdx), s.dataIn = .bytes f.bytes → f.bytes.length ≤ s.cfg.maxPayload →
    s.rt[k].en = true →
    ∃ d t u F G, exec (.setEnabled k.val false) s = .next d ∧
      exec .process s = .next t ∧ t.resp = okWith (.frame F) ∧
      exec .process d = .next u ∧ u.resp = okWith (.frame G) ∧
      (∀ o : OutIdx, o ≠ s.rt[k].out → frameBit G o = frameBit F o) ∧
      ((∀ j : InIdx, j ≠ k → s.rt[j].en = true → s.rt[j].out ≠ s.rt[k].out) →
        frameBit G s.rt[k].out = false) ∧
      (∀ j : InIdx, lastToTarget d.rt s.rt[k].out j → frameBit G s.rt[k].out = entryValue s f j)

/-- With every entry disabled, PROCESS on any valid frame returns the all-zero data region, whose checksum is 0x253F,
and changes no latch cell (R148). -/
def Obligations.AllDisabledTableGivesTheZeroFrame : Prop :=
  ∀ (s : State) (f : InFrame), s.dataIn = .bytes f.bytes → f.bytes.length ≤ s.cfg.maxPayload →
    (∀ k : InIdx, s.rt[k].en = false) →
    ∃ t F, exec .process s = .next t ∧ t.resp = okWith (.frame F) ∧ t.ls = s.ls ∧ t.rt = s.rt ∧
      F.take 26 = 0xA5 :: (List.replicate 24 0 ++ [0x01]) ∧
      (s.cfg.crcOrder = .hiFirst → F.drop 26 = [0x25, 0x3F]) ∧
      (s.cfg.crcOrder = .loFirst → F.drop 26 = [0x3F, 0x25])

/-- PROCESS again on the same payload, with nothing between, gives the same frame and leaves the latch store as the
first left it (R149). That the one payload stands for both commands is the model's choice (log entry 8). -/
def Obligations.ProcessIsIdempotentOnARepeatedFrame : Prop :=
  ∀ s t : State, exec .process s = .next t → exec .process t = .next t

/-- What PROCESS answers and keeps depends only on the first 25 bytes, the two register files and `CRC_ORDER` (R150). -/
def Obligations.ProcessIgnoresTrailingBytes : Prop :=
  ∀ (s t : State) (f g : InFrame), s.dataIn = .bytes f.bytes → f.bytes.length ≤ s.cfg.maxPayload →
    t.dataIn = .bytes g.bytes → g.bytes.length ≤ t.cfg.maxPayload →
    f.bytes.take 25 = g.bytes.take 25 → s.rt = t.rt → s.ls = t.ls → s.cfg.crcOrder = t.cfg.crcOrder →
    ∃ s' t', exec .process s = .next s' ∧ exec .process t = .next t' ∧ s'.resp = t'.resp ∧ s'.ls = t'.ls

/-- The derived index of enabled entries gives the same result as the scan of all 192 (R29). -/
def Obligations.EnabledIndexGivesTheSameResult : Prop :=
  ∀ (rt : RoutingTable) (f : InFrame) (ls : LatchStore), routeOver (enabledIndex rt) rt f ls = routeFrame rt f ls

/-- Under an identity table with no latch, the data region of the outbound frame is that of the inbound frame (R42,
R140; 95_test_vectors.md S9). -/
def Obligations.IdentityTablePassesTheDataThrough : Prop :=
  ∀ (s : State) (f : InFrame), s.dataIn = .bytes f.bytes → f.bytes.length ≤ s.cfg.maxPayload →
    (∀ k : InIdx, s.rt[k] = { out := k, en := true, lt := false }) →
    ∃ t F, exec .process s = .next t ∧ t.resp = okWith (.frame F) ∧ t.ls = s.ls ∧
      (F.drop 1).take 24 = (f.bytes.drop 1).take 24

/-- Over any sequence of valid frames, the toggle of an entry that stays enabled and latched has flipped once for each
rising edge of its input bit, and nothing else has moved it (R142, R145). -/
def Obligations.LatchToggleCountsRisingEdges : Prop :=
  ∀ (fs : List InFrame) (s : State) (k : InIdx), s.rt[k].en = true → s.rt[k].lt = true →
    (∀ f ∈ fs, f.bytes.length ≤ s.cfg.maxPayload) →
    ∃ q, serve (fs.map fun f => issue .process (.bytes f.bytes)) s = some q ∧ q.1.rt = s.rt ∧
      q.1.ls[k].tog = (s.ls[k].tog ^^ (risingEdges s.ls[k].prev (fs.map fun f => inBit f k) % 2 == 1))

/-- Writing an output bit changes that bit to the value and no other bit of the buffer (R44). -/
def Obligations.OutputWriteReplacesOneBit : Prop :=
  ∀ (d : DataBuf) (o : OutIdx) (v : Bit),
    ∃ e : DataBuf, outPut d o v = e ∧
      ∀ (i : Fin 24) (j : Fin 8), e[i].getLsbD j.val =
        if i.val = o.val / 8 ∧ j.val = 7 - o.val % 8 then v else d[i].getLsbD j.val

/-! ### CRC -/

/-- The checksum: 0xFFFF for no bytes, and each further byte is XORed into the low byte of the running value, which then
takes eight shift steps, XORing 0xA001 whenever the bit shifted out is 1. No final XOR follows (R100). -/
def Obligations.ChecksumTakesEightShiftStepsPerByte : Prop :=
  crc16 [] = 0xFFFF ∧ ∀ (bs : List Byte) (b : Byte),
    crc16 (bs ++ [b]) =
      (fun c : Crc => if c.getLsbD 0 = true then (c >>> 1) ^^^ 0xA001 else c >>> 1)^[8] (crc16 bs ^^^ b.setWidth 16)

/-- CRC16 on every payload the port can carry answers its checksum and writes no register; the empty payload gives
0xFFFF (R101). -/
def Obligations.Crc16AnswersTheChecksum : Prop :=
  ∀ (s : State) (p : List Byte), s.dataIn = .bytes p → p.length ≤ s.cfg.maxPayload →
    ∃ t, exec .crc16 s = .next t ∧ t.resp = okWith (.crc (crc16 p)) ∧ t.rt = s.rt ∧ t.ls = s.ls ∧
      sameInputs s t ∧ (p = [] → t.resp = okWith (.crc 0xFFFF))

/-- CRC_CHECK: fewer than two bytes respond `FrameTooShort`; else the response is OK with the checksum of all bytes but
the last two, and MATCH says whether they hold it in `CRC_ORDER` (R102). -/
def Obligations.CrcCheckComparesTheStoredChecksum : Prop :=
  ∀ (s : State) (p : List Byte), s.dataIn = .bytes p → p.length ≤ s.cfg.maxPayload →
    (p.length < 2 → ∃ t, exec .crcCheck s = .next t ∧
      t.resp = some { st := .frameTooShort, data := .none } ∧ t.rt = s.rt ∧ t.ls = s.ls ∧ sameInputs s t) ∧
    (∀ (d : List Byte) (b0 b1 : Byte), p = d ++ [b0, b1] →
      ∃ (t : State) (r : BitVec 17), exec .crcCheck s = .next t ∧ t.resp = okWith (.crcCheck r) ∧
        r.extractLsb' 0 16 = crc16 d ∧
        (s.cfg.crcOrder = .hiFirst → (r.getLsbD 16 = true ↔
          (crc16 d).extractLsb' 8 8 = b0 ∧ (crc16 d).extractLsb' 0 8 = b1)) ∧
        (s.cfg.crcOrder = .loFirst → (r.getLsbD 16 = true ↔
          (crc16 d).extractLsb' 0 8 = b0 ∧ (crc16 d).extractLsb' 8 8 = b1)) ∧
        t.rt = s.rt ∧ t.ls = s.ls ∧ sameInputs s t)

/-- The lookup-table form of the checksum equals the bitwise form, for one byte step from every running value and for
every byte sequence (R103). -/
def Obligations.LookupTableChecksumIsTheChecksum : Prop :=
  (∀ (c : Crc) (b : Byte), crcTableByte c b = crcByte c b) ∧ ∀ bs : List Byte, crc16Table bs = crc16 bs

/-- The check value: the checksum of "123456789" is 0x4B37 (R104). -/
def Obligations.ChecksumCheckValue : Prop :=
  crc16 [0x31, 0x32, 0x33, 0x34, 0x35, 0x36, 0x37, 0x38, 0x39] = 0x4B37

/-- Appended low byte first, the checksum of any sequence leaves the residue 0; appended high byte first, no residue is
common to all sequences (R105). -/
def Obligations.ResidueIsZeroLowByteFirstOnly : Prop :=
  (∀ d : List Byte, crc16 (d ++ [(crc16 d).extractLsb' 0 8, (crc16 d).extractLsb' 8 8]) = 0) ∧
    ¬ ∃ r : Crc, ∀ d : List Byte, crc16 (d ++ [(crc16 d).extractLsb' 8 8, (crc16 d).extractLsb' 0 8]) = r

/-- In both byte orders, CRC_CHECK matches a sequence with its own checksum appended (R105). -/
def Obligations.AppendedChecksumMatches : Prop :=
  ∀ (s : State) (d : List Byte), d.length + 2 ≤ s.cfg.maxPayload →
    s.dataIn = .bytes (d ++ crcBytes s.cfg.crcOrder (crc16 d)) →
    ∃ (t : State) (r : BitVec 17), exec .crcCheck s = .next t ∧ t.resp = okWith (.crcCheck r) ∧
      r.getLsbD 16 = true ∧ r.extractLsb' 0 16 = crc16 d

/-! ### Named signals and addresses -/

/-- READ_SIGNAL answers bit `j` of `p[bi + 1]`, or 0 where the payload has no such byte, for any payload the port can
carry, and writes no register (R170). -/
def Obligations.ReadSignalAnswersOneBit : Prop :=
  ∀ (s : State) (p : List Byte) (bi j : Nat), s.dataIn = .bytes p → p.length ≤ s.cfg.maxPayload →
    ∃ (t : State) (b : Bit), exec (.readSignal bi j) s = .next t ∧ t.resp = okWith (.signal (BitVec.ofBool b)) ∧
      (p.length ≤ bi + 1 → b = false) ∧ (∀ x : Byte, p[bi + 1]? = some x → b = (x >>> j).getLsbD 0) ∧
      t.rt = s.rt ∧ t.ls = s.ls ∧ sameInputs s t

/-- READ_SIGNAL at the coordinate of the flat address of input bit `k` reads the bit PROCESS samples for entry `k`
(R173). -/
def Obligations.FlatAddressReadsTheRoutedBit : Prop :=
  ∀ (s : State) (f : InFrame) (k : InIdx), s.dataIn = .bytes f.bytes → f.bytes.length ≤ s.cfg.maxPayload →
    (flatAddress k.val).byteIndex = k.val / 8 ∧ (flatAddress k.val).bitIndex = 7 - k.val % 8 ∧
    ∃ t, exec (.readSignal (flatAddress k.val).byteIndex (flatAddress k.val).bitIndex) s = .next t ∧
      t.resp = okWith (.signal (BitVec.ofBool (inBit f k)))

/-- The two address forms: `I<b>.<j>` resolves to `(b, j)` and `I<n>` to `(n div 8, 7 - n mod 8)`, for all digit strings
(R92, R93). -/
def Obligations.AddressFormsResolve : Prop :=
  ∀ ds : List Char, ds ≠ [] → (∀ c ∈ ds, '0' ≤ c ∧ c ≤ '9') →
    resolveAddress ('I' :: ds) = .ok { byteIndex := decimalValue ds / 8, bitIndex := 7 - decimalValue ds % 8 } ∧
    ∀ j : Fin 8, resolveAddress ('I' :: (ds ++ ['.', Char.ofNat (0x30 + j.val)])) =
      .ok { byteIndex := decimalValue ds, bitIndex := j.val }

/-- A byte index above 255 cannot be encoded, and the rule's value for it is 0 on every payload the port can carry, so
the host yields 0 (R172). -/
def Obligations.ByteIndexAbove255ReadsZero : Prop :=
  ∀ (s : State) (p : List Byte) (addr : List Char) (a : BitAddress), s.cfg.wf → p.length ≤ s.cfg.maxPayload →
    resolveAddress addr = .ok a → 255 < a.byteIndex →
    expandPseudo (.readSignalAt addr p) = .yields (readSignal a.byteIndex a.bitIndex p) ∧
      readSignal a.byteIndex a.bitIndex p = false

/-- The pseudo-commands that are more than one plain command, run from any state: ROUTE sets an entry's target and
enables it; IDENTITY and CLEAR_TABLE load their tables. None of them changes a latch cell (R72). -/
def Obligations.PseudoCommandsDoWhatTheyStandFor : Prop :=
  ∀ s : State,
    (∀ (k : InIdx) (o : OutIdx), ∃ rs t, expandPseudo (.route k.val o.val) = .commands rs ∧
      serve rs s = some (t, [okWith .none, okWith .none]) ∧
      t.rt[k] = { out := o, en := true, lt := s.rt[k].lt } ∧ (∀ j : InIdx, j ≠ k → t.rt[j] = s.rt[j]) ∧
      t.ls = s.ls) ∧
    (∃ rs t, expandPseudo .identity = .commands rs ∧ serve rs s = some (t, [okWith .none]) ∧
      (∀ k : InIdx, t.rt[k] = { out := k, en := true, lt := false }) ∧ t.ls = s.ls) ∧
    (∃ rs t, expandPseudo .clearTable = .commands rs ∧ serve rs s = some (t, [okWith .none]) ∧
      (∀ k : InIdx, t.rt[k] = { out := k, en := false, lt := false }) ∧ t.ls = s.ls)

/-! ### The whole machine -/

/-- A command that responds with any status but OK leaves the routing table and the latch store as they were (R204). -/
def Obligations.ErrorResponseWritesNothing : Prop :=
  ∀ (s t : State) (r : Response), s.rst = false → step s = .next t → t.resp = some r → r.st ≠ .ok →
    t.rt = s.rt ∧ t.ls = s.ls ∧ r.data = .none

/-- Only the four commands that write the routing table, and reset, change it (R23). -/
def Obligations.OnlyTableCommandsChangeTheRoutingTable : Prop :=
  ∀ s t : State, step s = .next t → t.rt ≠ s.rt →
    s.rst = true ∨ ∃ w i, s.cmd = some w ∧ decode w = some i ∧
      ((∃ k o, i = .setOutput k o) ∨ (∃ k e, i = .setEnabled k e) ∨ (∃ k l, i = .setLatch k l) ∨ i = .loadTable)

/-- A latch cell changes in two ways only: PROCESS samples it for an entry that is enabled and latched, or its latch
flag goes from 0 to 1 and clears it. Otherwise it keeps its value (R26). -/
def Obligations.LatchCellChangesInTwoWaysOnly : Prop :=
  ∀ (s t : State) (k : InIdx), s.rst = false → step s = .next t → t.ls[k] ≠ s.ls[k] →
    (∃ w, s.cmd = some w ∧ decode w = some .process ∧ s.rt[k].en = true ∧ s.rt[k].lt = true) ∨
      (s.rt[k].lt = false ∧ t.rt[k].lt = true ∧ t.ls[k] = { prev := false, tog := false })

/-- Whatever command takes a latch flag from 0 to 1 clears the cell in the same step; a command other than PROCESS that
does not take it from 0 to 1, by writing 1 over 1 or by writing 0, leaves the cell (R25). -/
def Obligations.LatchFlagTransitionClearsTheCell : Prop :=
  ∀ (s t : State) (k : InIdx), s.rst = false → step s = .next t →
    (s.rt[k].lt = false → t.rt[k].lt = true → t.ls[k] = { prev := false, tog := false }) ∧
    ((s.rt[k].lt = true ∨ t.rt[k].lt = false) → (∀ w, s.cmd = some w → decode w ≠ some .process) →
      t.ls[k] = s.ls[k])

/-- Every step keeps the invariant: the configuration stays legal, and every response is one the core may give, each
outbound frame among them signed (R9, R69, R82, R146, R200). -/
def Obligations.StepKeepsResponsesWellFormed : Prop :=
  ∀ s t : State, s.Inv → step s = .next t → t.Inv

/-- The state after reset meets the invariant. It does so by the model's choices of an empty response port (log entry 1)
and of the configuration that State.reset holds (log entry 2). -/
def Obligations.ResetStateMeetsTheInvariant : Prop := State.reset.Inv

/-- Every whole command completes with a response (R50, R201, R242). That one command is one step (log entry 14) and that
the step leaves the command port free (log entry 7) are the model's choices. -/
def Obligations.EveryWholeCommandResponds : Prop :=
  ∀ (s : State) (w : CmdWord), s.rst = false → s.cmd = some w → s.commandWhole →
    ∃ t r, step s = .next t ∧ t.resp = some r ∧ t.cmd = none

/-- No step changes the configuration or the payload on the data-in port (R40, R46). That the payload stays on the port
after its command is the model's choice (log entry 8). -/
def Obligations.StepKeepsConfigurationAndPayload : Prop :=
  ∀ s t : State, step s = .next t → t.cfg = s.cfg ∧ t.dataIn = s.dataIn

/-- The stops: a byte payload above `MAX_PAYLOAD` is refused, and so is a command without the payload its opcode calls
for (U12, D11, R67; log entry 5, the model's choice for a payload of the wrong kind). -/
def Obligations.CommandsWithoutTheirPayloadAreRefused : Prop :=
  ∀ (s : State) (i : Instr),
    (∀ p, s.dataIn = .bytes p → s.cfg.maxPayload < p.length → payloadKind i = .bytes →
      exec i s = .refused .payloadTooLong) ∧
    ((∀ p, s.dataIn ≠ .bytes p) → payloadKind i = .bytes → exec i s = .refused .bytePayloadMissing) ∧
    ((∀ w, s.dataIn ≠ .table w) → payloadKind i = .table → exec i s = .refused .tablePayloadMissing)

/-- A host that only observes does not disturb another: for every interleaving of its stream with the other host's, the
registers end as the other host alone leaves them, and that host's responses are among those given, in its order (R50,
R51, R213). Interleavings as a relation over request streams are the model's choice (log entry 12). -/
def Obligations.ObservingHostDoesNotDisturbAnother : Prop :=
  ∀ (a b rs : List Request) (s : State) (q : State × List (Option Response)),
    Interleaving [a, b] rs → (∀ r ∈ b, requestObserves r = true ∧ requestWhole s.cfg r) → serve a s = some q →
    ∃ u, serve rs s = some u ∧ u.1.rt = q.1.rt ∧ u.1.ls = q.1.ls ∧ q.2.Sublist u.2

/-- A whole command acts on the core's state alone, with the configuration as a parameter: the step's next state has the
core's state and the response that `commandOn` answers, and nothing else of the machine enters or changes but the command
port, which is free (R31, R49). That the port is free is the model's choice (log entry 7). -/
def Obligations.CommandActsOnTheCoreStateAlone : Prop :=
  ∀ (s : State) (w : CmdWord), s.rst = false → s.cmd = some w → s.commandWhole →
    ∃ (c : CoreState) (r : Response), commandOn s.cfg w s.dataIn s.toCoreState = some (c, r) ∧
      step s = .next { s with toCoreState := c, cmd := none, resp := some r }
end

