-- ==== Sys2Proof/Laws/Decode.lean ====
section
/-! SUPPORT. The decoder as one chain of tests, and the fields of a command word built from its fields. -/

namespace Sys2Proof

/-- All the decoder can answer: the first row of rule R63 that the word selects (R64). -/
theorem decode_eq (w : CmdWord) :
    decode w =
      if w &&& 0xF0000FFF = 0x10000000 then some (.setOutput (fieldA w) (fieldB w))
      else if w &&& 0xF00FFFFE = 0x20000000 then some (.setEnabled (fieldA w) (fieldV w))
      else if w &&& 0xF00FFFFE = 0x30000000 then some (.setLatch (fieldA w) (fieldV w))
      else if w &&& 0xFFFFFFFF = 0x40000000 then some .loadTable
      else if w &&& 0xF00FFFFF = 0x50000000 then some (.readEntry (fieldA w))
      else if w &&& 0xF00FFFFF = 0x60000000 then some (.readLatch (fieldA w))
      else if w &&& 0xFFFFFFFF = 0x70000000 then some .process
      else if w &&& 0xF00F8FFF = 0x80000000 then some (.readSignal (fieldA w) (fieldJ w))
      else if w &&& 0xFFFFFFFF = 0x90000000 then some .crc16
      else if w &&& 0xFFFFFFFF = 0xA0000000 then some .crcCheck
      else none := by
  have find (p : Row → Bool) (r : Row) (rs : List Row) (g : Row → Instr) :
      ((r :: rs).find? p).map g = if p r = true then some (g r) else (rs.find? p).map g := by
    cases h : p r <;> simp [h]
  simp only [decode, rows, find, Row.selects, beq_iff_eq, List.find?_nil, Option.map_none]

@[simp] theorem fieldA_commandWord (op : BitVec 4) (a b : BitVec 8) (v : BitVec 1) :
    fieldA (commandWord op a b v) = a.toNat := by
  unfold fieldA commandWord
  congr 1
  apply BitVec.eq_of_getLsbD_eq
  intro i hi
  interval_cases i <;> simp

@[simp] theorem fieldB_commandWord (op : BitVec 4) (a b : BitVec 8) (v : BitVec 1) :
    fieldB (commandWord op a b v) = b.toNat := by
  unfold fieldB commandWord
  congr 1
  apply BitVec.eq_of_getLsbD_eq
  intro i hi
  interval_cases i <;> simp

@[simp] theorem fieldJ_commandWord (op : BitVec 4) (a : BitVec 8) (j : BitVec 3) (v : BitVec 1) :
    fieldJ (commandWord op a (j.setWidth 8) v) = j.toNat := by
  unfold fieldJ commandWord
  congr 1
  apply BitVec.eq_of_getLsbD_eq
  intro i hi
  interval_cases i <;> simp

@[simp] theorem fieldV_commandWord (op : BitVec 4) (a b : BitVec 8) (v : Bit) :
    fieldV (commandWord op a b (BitVec.ofBool v)) = v := by
  unfold fieldV commandWord
  simp

end Sys2Proof
end

