-- ==== Sys2Proof/Laws/State.lean ====
section
/-! SUPPORT. One lemma per field per update of State, each true by unfolding the update. -/

namespace Sys2Proof.Machine

@[simp] theorem setEntry_rt (k : InIdx) (e : RouteEntry) (s : State) : (s.setEntry k e).rt = s.rt.set k e := rfl
@[simp] theorem setEntry_ls (k : InIdx) (e : RouteEntry) (s : State) : (s.setEntry k e).ls = s.ls := rfl
@[simp] theorem setEntry_cmd (k : InIdx) (e : RouteEntry) (s : State) : (s.setEntry k e).cmd = s.cmd := rfl
@[simp] theorem setEntry_dataIn (k : InIdx) (e : RouteEntry) (s : State) : (s.setEntry k e).dataIn = s.dataIn := rfl
@[simp] theorem setEntry_resp (k : InIdx) (e : RouteEntry) (s : State) : (s.setEntry k e).resp = s.resp := rfl
@[simp] theorem setEntry_rst (k : InIdx) (e : RouteEntry) (s : State) : (s.setEntry k e).rst = s.rst := rfl
@[simp] theorem setEntry_cfg (k : InIdx) (e : RouteEntry) (s : State) : (s.setEntry k e).cfg = s.cfg := rfl
@[simp] theorem setEntry_draws (k : InIdx) (e : RouteEntry) (s : State) : (s.setEntry k e).draws = s.draws := rfl

@[simp] theorem setCell_rt (k : InIdx) (c : LatchCell) (s : State) : (s.setCell k c).rt = s.rt := rfl
@[simp] theorem setCell_ls (k : InIdx) (c : LatchCell) (s : State) : (s.setCell k c).ls = s.ls.set k c := rfl
@[simp] theorem setCell_cmd (k : InIdx) (c : LatchCell) (s : State) : (s.setCell k c).cmd = s.cmd := rfl
@[simp] theorem setCell_dataIn (k : InIdx) (c : LatchCell) (s : State) : (s.setCell k c).dataIn = s.dataIn := rfl
@[simp] theorem setCell_resp (k : InIdx) (c : LatchCell) (s : State) : (s.setCell k c).resp = s.resp := rfl
@[simp] theorem setCell_rst (k : InIdx) (c : LatchCell) (s : State) : (s.setCell k c).rst = s.rst := rfl
@[simp] theorem setCell_cfg (k : InIdx) (c : LatchCell) (s : State) : (s.setCell k c).cfg = s.cfg := rfl
@[simp] theorem setCell_draws (k : InIdx) (c : LatchCell) (s : State) : (s.setCell k c).draws = s.draws := rfl

@[simp] theorem setResp_rt (r : Option Response) (s : State) : (s.setResp r).rt = s.rt := rfl
@[simp] theorem setResp_ls (r : Option Response) (s : State) : (s.setResp r).ls = s.ls := rfl
@[simp] theorem setResp_cmd (r : Option Response) (s : State) : (s.setResp r).cmd = s.cmd := rfl
@[simp] theorem setResp_dataIn (r : Option Response) (s : State) : (s.setResp r).dataIn = s.dataIn := rfl
@[simp] theorem setResp_resp (r : Option Response) (s : State) : (s.setResp r).resp = r := rfl
@[simp] theorem setResp_rst (r : Option Response) (s : State) : (s.setResp r).rst = s.rst := rfl
@[simp] theorem setResp_cfg (r : Option Response) (s : State) : (s.setResp r).cfg = s.cfg := rfl
@[simp] theorem setResp_draws (r : Option Response) (s : State) : (s.setResp r).draws = s.draws := rfl

@[simp] theorem accept_rt (s : State) : s.accept.rt = s.rt := rfl
@[simp] theorem accept_ls (s : State) : s.accept.ls = s.ls := rfl
@[simp] theorem accept_cmd (s : State) : s.accept.cmd = none := rfl
@[simp] theorem accept_dataIn (s : State) : s.accept.dataIn = s.dataIn := rfl
@[simp] theorem accept_resp (s : State) : s.accept.resp = none := rfl
@[simp] theorem accept_rst (s : State) : s.accept.rst = s.rst := rfl
@[simp] theorem accept_cfg (s : State) : s.accept.cfg = s.cfg := rfl
@[simp] theorem accept_draws (s : State) : s.accept.draws = s.draws := rfl

@[simp] theorem applyReset_rt (s : State) : s.applyReset.rt = RoutingTable.reset := by simp only [State.applyReset]
@[simp] theorem applyReset_ls (s : State) : s.applyReset.ls = LatchStore.reset := by simp only [State.applyReset]
@[simp] theorem applyReset_cmd (s : State) : s.applyReset.cmd = none := by simp only [State.applyReset]
@[simp] theorem applyReset_dataIn (s : State) : s.applyReset.dataIn = s.dataIn := by simp only [State.applyReset]
@[simp] theorem applyReset_resp (s : State) : s.applyReset.resp = s.resp := by simp only [State.applyReset]
@[simp] theorem applyReset_rst (s : State) : s.applyReset.rst = false := by simp only [State.applyReset]
@[simp] theorem applyReset_cfg (s : State) : s.applyReset.cfg = s.cfg := by simp only [State.applyReset]
@[simp] theorem applyReset_draws (s : State) : s.applyReset.draws = s.draws := by simp only [State.applyReset]

@[simp] theorem present_rt (w : CmdWord) (p : Payload) (s : State) : (s.present w p).rt = s.rt := rfl
@[simp] theorem present_ls (w : CmdWord) (p : Payload) (s : State) : (s.present w p).ls = s.ls := rfl
@[simp] theorem present_cmd (w : CmdWord) (p : Payload) (s : State) : (s.present w p).cmd = some w := rfl
@[simp] theorem present_dataIn (w : CmdWord) (p : Payload) (s : State) : (s.present w p).dataIn = p := rfl
@[simp] theorem present_resp (w : CmdWord) (p : Payload) (s : State) : (s.present w p).resp = s.resp := rfl
@[simp] theorem present_rst (w : CmdWord) (p : Payload) (s : State) : (s.present w p).rst = s.rst := rfl
@[simp] theorem present_cfg (w : CmdWord) (p : Payload) (s : State) : (s.present w p).cfg = s.cfg := rfl
@[simp] theorem present_draws (w : CmdWord) (p : Payload) (s : State) : (s.present w p).draws = s.draws := rfl

@[simp] theorem presentWord_rt (w : CmdWord) (s : State) : (s.presentWord w).rt = s.rt := rfl
@[simp] theorem presentWord_ls (w : CmdWord) (s : State) : (s.presentWord w).ls = s.ls := rfl
@[simp] theorem presentWord_cmd (w : CmdWord) (s : State) : (s.presentWord w).cmd = some w := rfl
@[simp] theorem presentWord_dataIn (w : CmdWord) (s : State) : (s.presentWord w).dataIn = payloadFor w s := rfl
@[simp] theorem presentWord_resp (w : CmdWord) (s : State) : (s.presentWord w).resp = s.resp := rfl
@[simp] theorem presentWord_rst (w : CmdWord) (s : State) : (s.presentWord w).rst = false := rfl
@[simp] theorem presentWord_cfg (w : CmdWord) (s : State) : (s.presentWord w).cfg = s.cfg := rfl
@[simp] theorem presentWord_draws (w : CmdWord) (s : State) : (s.presentWord w).draws = s.draws := rfl

@[simp] theorem setResp_toCoreState (r : Option Response) (s : State) : (s.setResp r).toCoreState = s.toCoreState := rfl
@[simp] theorem accept_toCoreState (s : State) : s.accept.toCoreState = s.toCoreState := rfl
@[simp] theorem present_toCoreState (w : CmdWord) (p : Payload) (s : State) :
    (s.present w p).toCoreState = s.toCoreState := rfl

@[simp] theorem reset_rt : State.reset.rt = RoutingTable.reset := rfl
@[simp] theorem reset_ls : State.reset.ls = LatchStore.reset := rfl
@[simp] theorem reset_cmd : State.reset.cmd = none := rfl
@[simp] theorem reset_dataIn : State.reset.dataIn = .none := rfl
@[simp] theorem reset_resp : State.reset.resp = none := rfl
@[simp] theorem reset_rst : State.reset.rst = false := rfl
@[simp] theorem reset_cfg : State.reset.cfg = Config.reference := rfl
@[simp] theorem reset_draws : State.reset.draws = 0 := rfl

@[simp] theorem drive_command_rt (w : CmdWord) (p : Payload) (s : State) : (s.drive (.command w p)).rt = s.rt := rfl
@[simp] theorem drive_command_ls (w : CmdWord) (p : Payload) (s : State) : (s.drive (.command w p)).ls = s.ls := rfl
@[simp] theorem drive_command_cmd (w : CmdWord) (p : Payload) (s : State) : (s.drive (.command w p)).cmd = some w := rfl
@[simp] theorem drive_command_dataIn (w : CmdWord) (p : Payload) (s : State) : (s.drive (.command w p)).dataIn = p := rfl
@[simp] theorem drive_command_resp (w : CmdWord) (p : Payload) (s : State) : (s.drive (.command w p)).resp = s.resp := rfl
@[simp] theorem drive_command_rst (w : CmdWord) (p : Payload) (s : State) : (s.drive (.command w p)).rst = false := rfl
@[simp] theorem drive_command_cfg (w : CmdWord) (p : Payload) (s : State) : (s.drive (.command w p)).cfg = s.cfg := rfl
@[simp] theorem drive_command_draws (w : CmdWord) (p : Payload) (s : State) : (s.drive (.command w p)).draws = s.draws := rfl

@[simp] theorem drive_reset_rt (s : State) : (s.drive .reset).rt = s.rt := rfl
@[simp] theorem drive_reset_ls (s : State) : (s.drive .reset).ls = s.ls := rfl
@[simp] theorem drive_reset_cmd (s : State) : (s.drive .reset).cmd = none := rfl
@[simp] theorem drive_reset_dataIn (s : State) : (s.drive .reset).dataIn = s.dataIn := rfl
@[simp] theorem drive_reset_resp (s : State) : (s.drive .reset).resp = s.resp := rfl
@[simp] theorem drive_reset_rst (s : State) : (s.drive .reset).rst = true := rfl
@[simp] theorem drive_reset_cfg (s : State) : (s.drive .reset).cfg = s.cfg := rfl
@[simp] theorem drive_reset_draws (s : State) : (s.drive .reset).draws = s.draws := rfl

@[simp] theorem drive_resetOver_rt (w : CmdWord) (p : Payload) (s : State) : (s.drive (.resetOver w p)).rt = s.rt := rfl
@[simp] theorem drive_resetOver_ls (w : CmdWord) (p : Payload) (s : State) : (s.drive (.resetOver w p)).ls = s.ls := rfl
@[simp] theorem drive_resetOver_cmd (w : CmdWord) (p : Payload) (s : State) : (s.drive (.resetOver w p)).cmd = some w := rfl
@[simp] theorem drive_resetOver_dataIn (w : CmdWord) (p : Payload) (s : State) : (s.drive (.resetOver w p)).dataIn = p := rfl
@[simp] theorem drive_resetOver_resp (w : CmdWord) (p : Payload) (s : State) : (s.drive (.resetOver w p)).resp = s.resp := rfl
@[simp] theorem drive_resetOver_rst (w : CmdWord) (p : Payload) (s : State) : (s.drive (.resetOver w p)).rst = true := rfl
@[simp] theorem drive_resetOver_cfg (w : CmdWord) (p : Payload) (s : State) : (s.drive (.resetOver w p)).cfg = s.cfg := rfl
@[simp] theorem drive_resetOver_draws (w : CmdWord) (p : Payload) (s : State) : (s.drive (.resetOver w p)).draws = s.draws := rfl

/-- `RT[k]` after reset (R230). -/
@[simp] theorem routingTable_reset_get (k : InIdx) : RoutingTable.reset[k] = RouteEntry.reset k := by
  simp [RoutingTable.reset]

/-- `LS[k]` after reset (R230). -/
@[simp] theorem latchStore_reset_get (k : InIdx) : LatchStore.reset[k] = LatchCell.cleared := by
  simp [LatchStore.reset]

/-- `RT[j]` after `RT[k] <- e`: the new entry at `k`, every other as it was. -/
theorem setEntry_rt_get (k j : InIdx) (e : RouteEntry) (s : State) :
    (s.setEntry k e).rt[j] = if j = k then e else s.rt[j] := by
  simp only [setEntry_rt, Fin.getElem_fin, Vector.getElem_set, Fin.ext_iff, eq_comm]

/-- `LS[j]` after `LS[k] <- c`: the new cell at `k`, every other as it was. -/
theorem setCell_ls_get (k j : InIdx) (c : LatchCell) (s : State) :
    (s.setCell k c).ls[j] = if j = k then c else s.ls[j] := by
  simp only [setCell_ls, Fin.getElem_fin, Vector.getElem_set, Fin.ext_iff, eq_comm]

end Sys2Proof.Machine
end

