-- ==== Sys2Proof/Laws/Ops.lean ====
section
/-! SUPPORT. For each shared operation, one lemma that says all it can do; callers cite it and do not unfold the
operation. -/

namespace Sys2Proof.Machine

/-! ### Responses and payloads -/

@[simp] theorem respond_eq_next (data : ResultData) (s t : State) :
    respond data s = .next t ↔ t = s.setResp (some { st := .ok, data := data }) := by
  simp [respond, eq_comm]

@[simp] theorem raise_eq_next (e : Status) (s t : State) :
    raise e s = .next t ↔ t = s.setResp (some { st := e, data := .none }) := by
  simp [raise, eq_comm]

/-- All `withIndex` can do: run on an index in range, or raise `RoutingIndexOutOfRange`. -/
theorem withIndex_cases (k : Nat) (s : State) (run : InIdx → Result) :
    (∃ h : k < 192, withIndex k s run = run ⟨k, h⟩) ∨
      (192 ≤ k ∧ withIndex k s run = raise .routingIndexOutOfRange s) := by
  by_cases h : k < 192
  · exact .inl ⟨h, by simp [withIndex, h]⟩
  · exact .inr ⟨by omega, by simp [withIndex, h]⟩

@[simp] theorem withIndex_of_lt {k : Nat} (h : k < 192) (s : State) (run : InIdx → Result) :
    withIndex k s run = run ⟨k, h⟩ := by
  simp [withIndex, h]

theorem withIndex_of_le {k : Nat} (h : 192 ≤ k) (s : State) (run : InIdx → Result) :
    withIndex k s run = raise .routingIndexOutOfRange s := by
  simp [withIndex, show ¬ k < 192 by omega]

@[simp] theorem withIndex_fin (k : InIdx) (s : State) (run : InIdx → Result) :
    withIndex k.val s run = run k := by
  simp [withIndex, k.isLt]

/-- If `withBytes` answers a next state, a byte payload that the port can carry stood on it. -/
theorem withBytes_next {s t : State} {run : List Byte → Result} (h : withBytes s run = .next t) :
    ∃ p, s.dataIn = .bytes p ∧ p.length ≤ s.cfg.maxPayload ∧ run p = .next t := by
  unfold withBytes at h
  split at h
  · split at h
    · exact ⟨_, by assumption, by assumption, h⟩
    · cases h
  · cases h

theorem withBytes_bytes {s : State} {p : List Byte} (hp : s.dataIn = .bytes p)
    (hl : p.length ≤ s.cfg.maxPayload) (run : List Byte → Result) : withBytes s run = run p := by
  simp [withBytes, hp, hl]

/-- If `withTable` answers a next state, a table payload stood on the port. -/
theorem withTable_next {s t : State} {run : TableWords → Result} (h : withTable s run = .next t) :
    ∃ w, s.dataIn = .table w ∧ run w = .next t := by
  unfold withTable at h
  split at h
  · exact ⟨_, by assumption, h⟩
  · cases h

theorem withTable_table {s : State} {w : TableWords} (hw : s.dataIn = .table w) (run : TableWords → Result) :
    withTable s run = run w := by
  simp [withTable, hw]

/-- All validation can find (R140): a valid frame, a payload too short, or a wrong first byte. -/
theorem checkFrame_cases (p : List Byte) :
    (∃ f : InFrame, f.bytes = p ∧ checkFrame p = .ok f) ∨
      (p.length < 25 ∧ checkFrame p = .error .frameTooShort) ∨
      (25 ≤ p.length ∧ p[0]? ≠ some inMark ∧ checkFrame p = .error .invalidMarker) := by
  unfold checkFrame
  split
  · split
    · exact .inl ⟨_, rfl, rfl⟩
    · exact .inr (.inr ⟨by assumption, by assumption, rfl⟩)
  · exact .inr (.inl ⟨by unfold inMin at *; omega, rfl⟩)

/-- Validation accepts a valid frame's bytes. -/
@[simp] theorem checkFrame_bytes (f : InFrame) : checkFrame f.bytes = .ok f := by
  obtain ⟨b, hl, hm⟩ := f
  simp [checkFrame, hl, hm]

/-! ### The loop of PROCESS -/

theorem routeEntry_disabled {rt : RoutingTable} {k : InIdx} (h : rt[k].en = false) (f : InFrame) (a : Pass) :
    routeEntry rt f a k = a := by
  simp only [routeEntry, h]
  rfl

theorem routeEntry_direct {rt : RoutingTable} {k : InIdx} (h : rt[k].en = true) (hl : rt[k].lt = false)
    (f : InFrame) (a : Pass) :
    routeEntry rt f a k = { a with data := outPut a.data rt[k].out (inBit f k) } := by
  simp only [routeEntry, h, hl]
  rfl

theorem routeEntry_latch {rt : RoutingTable} {k : InIdx} (h : rt[k].en = true) (hl : rt[k].lt = true)
    (f : InFrame) (a : Pass) :
    routeEntry rt f a k =
      { ls := a.ls.set k (sampleLatch a.ls[k] (inBit f k)),
        data := outPut a.data rt[k].out (sampleLatch a.ls[k] (inBit f k)).tog } := by
  simp only [routeEntry, h, hl]
  rfl

/-! ### Loading a table -/

/-- All the checks of LOAD_TABLE can find (R123): a reserved bit, else an index out of range, else the table. -/
theorem checkTable_cases (w : TableWords) :
    ((∃ k : InIdx, wordReserved w[k] ≠ 0) ∧ checkTable w = .error .illegalCommand) ∨
      ((∀ k : InIdx, wordReserved w[k] = 0) ∧ (∃ k : InIdx, 192 ≤ wordOut w[k]) ∧
        checkTable w = .error .routingIndexOutOfRange) ∨
      ((∀ k : InIdx, wordReserved w[k] = 0) ∧ ∃ h : ∀ k : InIdx, wordOut w[k] < 192,
        checkTable w = .ok (Vector.ofFn fun k => wordEntry w[k] (h k))) := by
  by_cases hr : ∃ k : InIdx, wordReserved w[k] ≠ 0
  · left
    refine ⟨hr, ?_⟩
    obtain ⟨k, hk⟩ := hr
    have : (w.any fun x => wordReserved x != 0) = true := by
      rw [Vector.any_eq_true]
      exact ⟨k, k.isLt, by simpa using hk⟩
    rw [checkTable, this, if_pos rfl]
  · right
    push Not at hr
    have ha : (w.any fun x => wordReserved x != 0) = false := by
      rw [Vector.any_eq_false]
      intro i hi
      simpa using hr ⟨i, hi⟩
    by_cases ho : ∀ k : InIdx, wordOut w[k] < 192
    · right
      exact ⟨hr, ho, by rw [checkTable, ha, if_neg (by simp), dif_pos ho]⟩
    · left
      refine ⟨hr, ?_, by rw [checkTable, ha, if_neg (by simp), dif_neg ho]⟩
      push Not at ho
      exact ho

/-! ### The command port -/

/-- All `runWord` can do: run the decoded command, or raise `IllegalCommand`. -/
theorem runWord_cases (run : Instr → State → Result) (w : CmdWord) (s : State) :
    (∃ i, decode w = some i ∧ runWord run w s = run i s) ∨
      (decode w = none ∧ runWord run w s = raise .illegalCommand s) := by
  unfold runWord
  split
  · exact .inl ⟨_, by assumption, rfl⟩
  · exact .inr ⟨by assumption, rfl⟩

/-- All a step with no reset can do: idle, or run the word presented. -/
theorem step_command_cases {s : State} (hr : s.rst = false) :
    (s.cmd = none ∧ step s = .next s.accept) ∨
      ∃ w, s.cmd = some w ∧ step s = runWord exec w s.accept := by
  cases hc : s.cmd with
  | none => exact .inl ⟨rfl, by simp [step, stepWith, hr, commandStep, hc]⟩
  | some w => exact .inr ⟨w, rfl, by simp [step, stepWith, hr, commandStep, hc]⟩

/-- All a step with reset can do: reset alone, or one of the two outcomes of a command that reset overlaps (R231). -/
theorem step_reset_cases {s : State} (hr : s.rst = true) :
    (s.cmd = none ∧ step s = .next s.accept.applyReset) ∨
      ∃ w, s.cmd = some w ∧
        (step s = .next { s.accept with draws := s.draws + 1 }.applyReset ∨
          step s = resetAfter (runWord exec w { s.accept with draws := s.draws + 1 })) := by
  cases hc : s.cmd with
  | none => exact .inl ⟨rfl, by simp [step, stepWith, hr, resetStep, hc]⟩
  | some w =>
    refine .inr ⟨w, rfl, ?_⟩
    simp only [step, stepWith, hr, if_true, resetStep, hc]
    split
    · exact .inr rfl
    · exact .inl rfl

/-- Reset after a command answers a next state only where the command does. -/
theorem resetAfter_next {r : Result} {t : State} (h : resetAfter r = .next t) :
    ∃ u, r = .next u ∧ t = u.applyReset := by
  cases r with
  | next u => exact ⟨u, rfl, by simpa [resetAfter, eq_comm] using h⟩
  | fault e => cases h
  | refused e => cases h

end Sys2Proof.Machine
end

