-- ==== Sys2Proof/Laws/Operands.lean ====
section
/-! SUPPORT. The bit primitives by their bits, and the word formats by their fields. -/

namespace Sys2Proof.Machine

/-- `getbit` is the bit of that number (R12). -/
theorem getbit_eq (b : Byte) (j : Nat) : getbit b j = b.getLsbD j := by
  unfold getbit
  rw [Bool.eq_iff_iff, beq_iff_eq]
  constructor
  · intro h
    simpa using congrArg (fun x => x.getLsbD 0) h
  · intro h
    apply BitVec.eq_of_getLsbD_eq
    intro i hi
    interval_cases i <;> simp [h]

/-- `putbit` sets one bit and keeps the rest (R12, R44). -/
theorem getLsbD_putbit {i j : Nat} (hi : i < 8) (hj : j < 8) (b : Byte) (v : Bit) :
    (putbit b j v).getLsbD i = if i = j then v else b.getLsbD i := by
  interval_cases j <;> interval_cases i <;> cases v <;> simp [putbit]

@[simp] theorem wordOut_entryWord (e : RouteEntry) : wordOut (entryWord e) = e.out.val := by
  have h : (entryWord e).extractLsb' 8 8 = (BitVec.ofNat 16 e.out.val).setWidth 8 := by
    unfold entryWord
    generalize BitVec.ofNat 16 e.out.val = o
    apply BitVec.eq_of_getLsbD_eq
    intro i hi
    interval_cases i <;> simp
  have := e.out.isLt
  rw [wordOut, h, BitVec.toNat_setWidth, BitVec.toNat_ofNat]
  omega

@[simp] theorem wordReserved_entryWord (e : RouteEntry) : wordReserved (entryWord e) = 0 := by
  apply BitVec.eq_of_getLsbD_eq
  intro i hi
  interval_cases i <;> simp [wordReserved, entryWord]

@[simp] theorem wordEn_entryWord (e : RouteEntry) : wordEn (entryWord e) = e.en := by
  simp [wordEn, entryWord]

@[simp] theorem wordLt_entryWord (e : RouteEntry) : wordLt (entryWord e) = e.lt := by
  simp [wordLt, entryWord]

/-- An entry word reads back as its entry (R68, R126). -/
@[simp] theorem wordEntry_entryWord (e : RouteEntry) (h : wordOut (entryWord e) < 192) :
    wordEntry (entryWord e) h = e := by
  obtain ⟨o, en, lt⟩ := e
  simp [wordEntry]

/-- The two bytes of a checksum, put back in the same order, are the checksum (R45, R102). -/
theorem crcOfBytes_crcBytes (order : CrcOrder) (c : Crc) :
    ∃ b0 b1, crcBytes order c = [b0, b1] ∧ crcOfBytes order b0 b1 = c := by
  have h : crcWord (hiByte c) (loByte c) = c := by
    apply BitVec.eq_of_getLsbD_eq
    intro i hi
    interval_cases i <;> simp [crcWord, hiByte, loByte]
  cases order with
  | hiFirst => exact ⟨_, _, rfl, h⟩
  | loFirst => exact ⟨_, _, rfl, h⟩

@[simp] theorem getLsbD_checkBits_match (m : Bit) (c : Crc) : (checkBits m c).getLsbD 16 = m := by
  simp [checkBits]

@[simp] theorem extractLsb'_checkBits (m : Bit) (c : Crc) : (checkBits m c).extractLsb' 0 16 = c := by
  apply BitVec.eq_of_getLsbD_eq
  intro i hi
  interval_cases i <;> simp [checkBits]

end Sys2Proof.Machine
end

