-- ==== Sys2Proof/Laws/Exec.lean ====
section
/-! SUPPORT. Each arm of `exec` as its meaning, and what the output buffer and the validator do. -/

namespace Sys2Proof.Machine

@[simp] theorem exec_setOutput (k o : Nat) (s : State) : exec (.setOutput k o) s = execSetOutput k o s := rfl
@[simp] theorem exec_setEnabled (k : Nat) (e : Bit) (s : State) : exec (.setEnabled k e) s = execSetEnabled k e s := rfl
@[simp] theorem exec_setLatch (k : Nat) (l : Bit) (s : State) : exec (.setLatch k l) s = execSetLatch k l s := rfl
@[simp] theorem exec_loadTable (s : State) : exec .loadTable s = execLoadTable s := rfl
@[simp] theorem exec_readEntry (k : Nat) (s : State) : exec (.readEntry k) s = execReadEntry k s := rfl
@[simp] theorem exec_readLatch (k : Nat) (s : State) : exec (.readLatch k) s = execReadLatch k s := rfl
@[simp] theorem exec_process (s : State) : exec .process s = execProcess s := rfl
@[simp] theorem exec_readSignal (bi j : Nat) (s : State) : exec (.readSignal bi j) s = execReadSignal bi j s := rfl
@[simp] theorem exec_crc16 (s : State) : exec .crc16 s = execCrc16 s := rfl
@[simp] theorem exec_crcCheck (s : State) : exec .crcCheck s = execCrcCheck s := rfl

/-- PROCESS on a valid frame is the loop and the response (R140). -/
theorem execProcess_frame {s : State} {f : InFrame} (hd : s.dataIn = .bytes f.bytes)
    (hl : f.bytes.length ≤ s.cfg.maxPayload) :
    execProcess s =
      respond (.frame (outFrame s.cfg.crcOrder (routeFrame s.rt f s.ls).data))
        { s with ls := (routeFrame s.rt f s.ls).ls } := by
  rw [execProcess, withBytes_bytes hd hl]
  simp

/-- All PROCESS can do where it answers a next state: route a valid frame, or turn an invalid one away (R140). -/
theorem execProcess_cases {s t : State} (h : execProcess s = .next t) :
    (∃ f : InFrame, s.dataIn = .bytes f.bytes ∧
      respond (.frame (outFrame s.cfg.crcOrder (routeFrame s.rt f s.ls).data))
        { s with ls := (routeFrame s.rt f s.ls).ls } = .next t) ∨
      raise .frameTooShort s = .next t ∨ raise .invalidMarker s = .next t := by
  obtain ⟨p, hd, hl, hr⟩ := withBytes_next (show withBytes s _ = _ from h)
  rcases checkFrame_cases p with ⟨f, rfl, he⟩ | ⟨_, he⟩ | ⟨_, _, he⟩ <;> rw [he] at hr
  · exact .inl ⟨f, hd, hr⟩
  · exact .inr (.inl hr)
  · exact .inr (.inr hr)

/-- A write of output bit `o`, by output bits: bit `o` takes the value and every other bit stays (R42, R44). -/
theorem dataBit_outPut (d : DataBuf) (o p : OutIdx) (v : Bit) :
    dataBit (outPut d o v) p = if p = o then v else dataBit d p := by
  have := o.isLt
  have := p.isLt
  unfold dataBit outPut
  simp only [getbit_eq]
  by_cases h : o.val / 8 = p.val / 8
  · simp only [← h, Vector.getElem_set_self]
    rw [getLsbD_putbit (by omega) (by omega)]
    by_cases h2 : p = o
    · simp [h2]
    · have : p.val ≠ o.val := fun e => h2 (Fin.ext e)
      rw [if_neg (by omega), if_neg h2]
  · rw [Vector.getElem_set_ne _ _ h, if_neg (by rintro rfl; exact h rfl)]

/-- The validator on a sequence and its two trailing bytes (R102). -/
theorem crcCheck_append (order : CrcOrder) (d : List Byte) (b0 b1 : Byte) :
    crcCheck order (d ++ [b0, b1]) = .ok (crc16 d == crcOfBytes order b0 b1, crc16 d) := by
  simp [crcCheck]

/-- The validator's one error (R102). -/
theorem crcCheck_error {order : CrcOrder} {p : List Byte} {e : Status} (h : crcCheck order p = .error e) :
    p.length < 2 ∧ e = .frameTooShort := by
  unfold crcCheck at h
  split at h
  · exact ⟨by assumption, by simpa using h.symm⟩
  · cases h

@[simp] theorem frameBody_length (d : DataBuf) : (frameBody d).length = 26 := by simp [frameBody]

@[simp] theorem outFrame_take (order : CrcOrder) (d : DataBuf) : (outFrame order d).take 26 = frameBody d := by
  simp [outFrame]

/-- All `issueAll` can do: the commands' requests, or nothing where an operand does not fit. -/
theorem issueAll_cases (is : List Instr) :
    ((∀ i ∈ is, i.wellFormed = true) ∧ issueAll is = .commands (is.map fun i => issue i .none)) ∨
      ((∃ i ∈ is, i.wellFormed = false) ∧ issueAll is = .unencodable) := by
  cases h : is.all Instr.wellFormed with
  | true => exact .inl ⟨by simpa using h, by simp [issueAll, h]⟩
  | false => exact .inr ⟨by simpa using h, by simp [issueAll, h]⟩

/-- All `commandOn` can do (R31): what a step does to the core's state, with the response it gives. -/
theorem commandOn_eq_some {cfg : Config} {w : CmdWord} {p : Payload} {c d : CoreState} {r : Response} :
    commandOn cfg w p c = some (d, r) ↔
      ∃ t, runWord exec w { State.reset with toCoreState := c, dataIn := p, cfg := cfg } = .next t ∧
        t.toCoreState = d ∧ t.resp = some r := by
  have e : step { State.reset with toCoreState := c, cmd := some w, dataIn := p, cfg := cfg } =
      runWord exec w { State.reset with toCoreState := c, dataIn := p, cfg := cfg } := rfl
  unfold commandOn
  rw [e]
  cases runWord exec w { State.reset with toCoreState := c, dataIn := p, cfg := cfg } with
  | next t => simp [and_left_comm]
  | fault f => simp
  | refused f => simp

end Sys2Proof.Machine
end

