-- ==== Sys2Proof/Tests/Slice0.lean ====
section
/-! SUPPORT. Tests on words and vectors of the spec (95_test_vectors.md and the encoding tables), and for each obligation
with hypotheses one witness that meets them. -/

namespace Sys2Proof.Tests

open Sys2Proof.Machine

/-! ### Helpers -/

/-- What is looked at in a step: the response, and one routing entry and one latch cell after it. -/
structure Seen where
  resp : Option Response
  entry : RouteEntry
  cell : LatchCell
deriving DecidableEq, Repr

/-- What a run shows of entry `k` where it answers a next state. -/
def seen (k : InIdx) : Result → Option Seen
  | .next t => some { resp := t.resp, entry := t.rt[k], cell := t.ls[k] }
  | _ => none

/-- The next state's response, where there is one. -/
def answer : Result → Option Response
  | .next t => t.resp
  | _ => none

/-- An error response. -/
def err (e : Status) : Option Response := some { st := e, data := .none }

/-- The reset state with a command presented. -/
def given (w : CmdWord) (p : Payload) : State := State.reset.present w p

/-- The state with entry 5 at `e` and its cell at `c`. -/
def with5 (e : RouteEntry) (c : LatchCell) (s : State) : State := (s.setEntry 5 e).setCell 5 c

/-- An inbound frame of 25 bytes with the marker and one data byte `b` at `D0`. -/
def frameOf (b : Byte) : InFrame := { bytes := 0x5A :: b :: List.replicate 23 0, long := by simp [inMin], marked := rfl }

/-- The same with two trailing bytes. -/
def longFrameOf (b : Byte) : InFrame :=
  { bytes := 0x5A :: b :: (List.replicate 23 0 ++ [0xAA, 0xBB]), long := by simp [inMin], marked := rfl }

/-- The reset state with PROCESS of a frame presented. -/
def processing (f : InFrame) : State := given 0x70000000 (.bytes f.bytes)

/-- Where a run's next state passes a test, there is such a next state. -/
theorem next_of {r : Result} (p : State → Bool) (h : (match r with | .next t => p t | _ => false) = true) :
    ∃ t, r = .next t ∧ p t = true := by
  cases r with
  | next t => exact ⟨t, rfl, h⟩
  | fault _ => cases h
  | refused _ => cases h

/-- A state on which PROCESS may take the frame `f` answers it with a frame. -/
theorem process_answers {s : State} {f : InFrame} (hd : s.dataIn = .bytes f.bytes)
    (hl : f.bytes.length ≤ s.cfg.maxPayload) :
    ∃ t F, exec .process s = .next t ∧ t.resp = okWith (.frame F) :=
  ⟨_, _, execProcess_frame hd hl, rfl⟩

/-! ### WellFormed refuses -/

theorem test_wf_setOutput : Instr.wellFormed (.setOutput 256 0) = false ∧ Instr.wellFormed (.setOutput 0 256) = false := by
  decide
theorem test_wf_setEnabled : Instr.wellFormed (.setEnabled 256 true) = false := by decide
theorem test_wf_setLatch : Instr.wellFormed (.setLatch 256 true) = false := by decide
theorem test_wf_readEntry : Instr.wellFormed (.readEntry 256) = false := by decide
theorem test_wf_readLatch : Instr.wellFormed (.readLatch 256) = false := by decide
theorem test_wf_readSignal : Instr.wellFormed (.readSignal 256 0) = false ∧ Instr.wellFormed (.readSignal 0 8) = false := by
  decide
theorem test_wf_no_operands : ∀ i ∈ [Instr.loadTable, .process, .crc16, .crcCheck], i.wellFormed = true := by decide

/-! ### Decoding, from the encoding table (R61 to R63) and the spec's words (R71, 95_test_vectors.md 2.3) -/

/-- R71. -/
theorem test_decode_setOutput : decode 0b00010000010100010100000000000000#32 = some (.setOutput 5 20) := by decide
/-- 95_test_vectors.md 2.3. -/
theorem test_decode_setOutput_191 : decode 0x1BFBF000 = some (.setOutput 191 191) := by decide
/-- R71. -/
theorem test_decode_setEnabled : decode 0b00100000000000000000000000000001#32 = some (.setEnabled 0 true) := by decide
/-- 95_test_vectors.md T9. -/
theorem test_decode_setLatch : decode 0b00110000010100000000000000000000#32 = some (.setLatch 5 false) := by decide
/-- R63. -/
theorem test_decode_loadTable : decode 0b01000000000000000000000000000000#32 = some .loadTable := by decide
/-- R71. -/
theorem test_decode_readEntry : decode 0b01011011111100000000000000000000#32 = some (.readEntry 191) := by decide
/-- 95_test_vectors.md T13. -/
theorem test_decode_readLatch : decode 0b01100000010100000000000000000000#32 = some (.readLatch 5) := by decide
/-- R63. -/
theorem test_decode_process : decode 0b01110000000000000000000000000000#32 = some .process := by decide
/-- R71. -/
theorem test_decode_readSignal : decode 0b10000000000100000101000000000000#32 = some (.readSignal 1 5) := by decide
/-- 95_test_vectors.md, Program 4. -/
theorem test_decode_readSignal_23 : decode 0x81700000 = some (.readSignal 23 0) := by decide
/-- R63. -/
theorem test_decode_crc16 : decode 0b10010000000000000000000000000000#32 = some .crc16 := by decide
/-- R63. -/
theorem test_decode_crcCheck : decode 0b10100000000000000000000000000000#32 = some .crcCheck := by decide
/-- The illegal words of 95_test_vectors.md 2.3. -/
theorem test_decode_illegal :
    decode 0x00000000 = none ∧ decode 0xB0000000 = none ∧ decode 0xF0000000 = none ∧ decode 0x10000001 = none ∧
      decode 0x10000800 = none ∧ decode 0x20001001 = none ∧ decode 0x20000002 = none ∧ decode 0x40000001 = none ∧
      decode 0x90000001 = none ∧ decode 0x5BF00001 = none ∧ decode 0x80008000 = none := by decide
/-- The encoder's words are the spec's (R71). -/
theorem test_encode_examples :
    encode (.setOutput 5 20) = 0x10514000 ∧ encode (.setEnabled 0 true) = 0x20000001 ∧
      encode (.setLatch 5 true) = 0x30500001 ∧ encode (.readEntry 191) = 0x5BF00000 ∧
      encode (.readSignal 1 5) = 0x80105000 := by decide
/-- The table's bit numbering is the word's own. -/
theorem test_decodeTableWord : decodeTableWord 32 0x10514000 = some (.setOutput 5 20) := by decide
/-- A command line of R71, its payload with it. -/
theorem test_assemble :
    assemble "READ_SIGNAL 1, 5, [0x5A, 00, 20]".toList = some (.command 0x80105000 (.bytes [0x5A, 0x00, 0x20])) := by
  decide +kernel

/-- Host text and pseudo-commands that stand for no command (log entries 10 and 17). -/
theorem test_no_command :
    assemble "PROCESS , [5A]".toList = none ∧ assemble "SET_OUTPUT 256, 0".toList = none ∧
      assemble "ROUTE 5, 20".toList = none ∧ expandPseudo (.route 256 0) = .unencodable := by decide +kernel

/-! ### One step, on the spec's vectors -/

/-- T1. -/
theorem test_setOutput :
    seen 5 (step (given 0x10514000 .none)) =
      some { resp := okWith .none, entry := { out := 20, en := false, lt := false }, cell := LatchCell.cleared } := by
  decide +kernel
/-- T3. -/
theorem test_setOutput_range :
    seen 0 (step (given 0x100C0000 .none)) =
      some { resp := err .routingIndexOutOfRange, entry := RouteEntry.reset 0, cell := LatchCell.cleared } := by
  decide +kernel
/-- T6. -/
theorem test_setEnabled :
    seen 0 (step (given 0x20000001 .none)) =
      some { resp := okWith .none, entry := { out := 0, en := true, lt := false }, cell := LatchCell.cleared } := by
  decide +kernel
/-- T5. -/
theorem test_setEnabled_range : answer (step (given 0x2C800001 .none)) = err .routingIndexOutOfRange := by decide +kernel
/-- T8: writing 1 over 1 keeps the cell. -/
theorem test_setLatch_again :
    seen 5 (step (with5 ⟨5, true, true⟩ ⟨true, true⟩ (given 0x30500001 .none))) =
      some { resp := okWith .none, entry := ⟨5, true, true⟩, cell := ⟨true, true⟩ } := by decide +kernel
/-- T10: a transition from 0 to 1 clears the cell. -/
theorem test_setLatch_transition :
    seen 5 (step (with5 ⟨5, true, false⟩ ⟨true, true⟩ (given 0x30500001 .none))) =
      some { resp := okWith .none, entry := ⟨5, true, true⟩, cell := ⟨false, false⟩ } := by decide +kernel
/-- T14. -/
theorem test_loadTable :
    seen 5 (step (given 0x40000000 (.table identityTable))) =
      some { resp := okWith .none, entry := ⟨5, true, false⟩, cell := LatchCell.cleared } := by decide +kernel
/-- T16: a reserved bit comes before an index out of range. -/
theorem test_loadTable_priority :
    seen 5 (step (given 0x40000000 (.table ((identityTable.set 0 0x0006).set 5 0xC002)))) =
      some { resp := err .illegalCommand, entry := RouteEntry.reset 5, cell := LatchCell.cleared } := by decide +kernel
/-- T11. -/
theorem test_readEntry : answer (step (given 0x5BF00000 .none)) = okWith (.entry 0xBF00) := by decide +kernel
/-- T12. -/
theorem test_readEntry_set :
    answer (step (with5 ⟨20, true, false⟩ LatchCell.cleared (given 0x50500000 .none))) = okWith (.entry 0x1402) := by
  decide +kernel
/-- Program 2, row 8: prev 1, tog 0. -/
theorem test_readLatch :
    answer (step (with5 ⟨20, true, true⟩ ⟨true, false⟩ (given 0x60500000 .none))) = okWith (.latch 0b10) := by
  decide +kernel
/-- R125: an index above 191. -/
theorem test_readLatch_range : answer (step (given 0x6C000000 .none)) = err .routingIndexOutOfRange := by decide +kernel
/-- L4: a rising edge on a cell at (0, 1) flips it to 0. -/
theorem test_process_latch :
    seen 5 (step (with5 ⟨20, true, true⟩ ⟨false, true⟩ (processing (frameOf 0x04)))) =
      some { resp := okWith (.frame (0xA5 :: (List.replicate 24 0 ++ [0x01, 0x25, 0x3F]))),
             entry := ⟨20, true, true⟩, cell := ⟨true, false⟩ } := by decide +kernel
/-- M3 with trailing bytes (M7): the later entry's 0 wins on output bit 7; entry 0 sets output bit 8. -/
theorem test_process_last_write :
    answer (step ((((processing (longFrameOf 0x90)).setEntry 3 ⟨7, true, false⟩).setEntry 10 ⟨7, true, false⟩).setEntry 0
      ⟨8, true, false⟩)) = okWith (.frame (0xA5 :: 0x00 :: 0x80 :: (List.replicate 22 0 ++ [0x01, 0xCB, 0x58]))) := by
  decide +kernel
/-- 95_test_vectors.md 2.5: a trailing byte is readable. -/
theorem test_readSignal_trailing :
    answer (step (given 0x81807000 (.bytes (0x5A :: (List.replicate 24 0 ++ [0x80]))))) = okWith (.signal 1) := by
  decide +kernel
/-- 95_test_vectors.md 2.5: `bi + 1 = 25` is out of range for 25 bytes. -/
theorem test_readSignal_range :
    answer (step (given 0x81800000 (.bytes (0x5A :: List.replicate 24 0xFF)))) = okWith (.signal 0) := by decide +kernel
/-- 95_test_vectors.md 2.1: "123456789". -/
theorem test_crc16 :
    answer (step (given 0x90000000 (.bytes [0x31, 0x32, 0x33, 0x34, 0x35, 0x36, 0x37, 0x38, 0x39]))) =
      okWith (.crc 0x4B37) := by decide +kernel
/-- 95_test_vectors.md 2.1: the empty payload. -/
theorem test_crc16_empty : answer (step (given 0x90000000 (.bytes []))) = okWith (.crc 0xFFFF) := by decide +kernel
/-- 95_test_vectors.md 2.2: the low byte first does not match under `HI_FIRST`, which is no error. -/
theorem test_crcCheck_mismatch :
    answer (step (given 0xA0000000 (.bytes [0x31, 0x32, 0x33, 0x34, 0x35, 0x36, 0x37, 0x38, 0x39, 0x37, 0x4B]))) =
      okWith (.crcCheck 0x04B37) := by decide +kernel
/-- 95_test_vectors.md 2.2: the same matches under `LO_FIRST`. -/
theorem test_crcCheck_loFirst :
    answer (step { given 0xA0000000 (.bytes [0x31, 0x32, 0x33, 0x34, 0x35, 0x36, 0x37, 0x38, 0x39, 0x37, 0x4B]) with
      cfg := { crcOrder := .loFirst, maxPayload := 28 } }) = okWith (.crcCheck 0x14B37) := by decide +kernel
/-- 95_test_vectors.md, Program 3, row 6. -/
theorem test_illegal_word : answer (step (given 0x00000000 .none)) = err .illegalCommand := by decide +kernel
/-- Four entries of the lookup table in 95_test_vectors.md 2.1. -/
theorem test_crcTable : crcTable 0x01 = 0xC0C1 ∧ crcTable 0x40 = 0xF001 ∧ crcTable 0x80 = 0xA001 ∧ crcTable 0xFF = 0x4040 := by
  decide +kernel
/-- 95_test_vectors.md 2.6. -/
theorem test_resolve :
    resolveAddress "I71".toList = .ok ⟨8, 0⟩ ∧ resolveAddress "  i23.0 ".toList = .ok ⟨23, 0⟩ ∧
      resolveAddress "0".toList = .ok ⟨0, 7⟩ ∧ resolveAddress "I2048".toList = .ok ⟨256, 7⟩ := by decide +kernel
/-- 95_test_vectors.md 2.6. -/
theorem test_resolve_malformed :
    ∀ t ∈ ["", "I9.8", "I1.07", "I1.", "I.5", "I-1", "O5", "II5", "I 5"],
      resolveAddress t.toList = .error .addressMalformed := by decide +kernel
/-- A command that a host places is the first a step runs after reset. -/
theorem test_withFetchWord : answer (step (State.reset.withFetchWord 32 0x70000000)) = err .frameTooShort := by
  decide +kernel
/-- R230: reset clears what the table and the latches held. -/
theorem test_reset :
    seen 5 (step { with5 ⟨20, true, true⟩ ⟨true, true⟩ State.reset with rst := true }) =
      some { resp := none, entry := RouteEntry.reset 5, cell := LatchCell.cleared } := by decide +kernel

/-! ### Witnesses of the hypotheses -/

theorem witness_decodeAfterEncode : Instr.wellFormed (.setOutput 255 255) = true ∧ Instr.wellFormed (.readSignal 255 7) = true := by
  decide
theorem witness_encodeAfterDecode : decode 0x8FF07000 = some (.readSignal 255 7) := by decide

/-- The OP field of a command word built from its fields. -/
theorem op_commandWord (op : BitVec 4) (a b : BitVec 8) (v : BitVec 1) :
    (commandWord op a b v).extractLsb' 28 4 = op := by
  apply BitVec.eq_of_getLsbD_eq
  intro i hi
  interval_cases i <;> simp [commandWord]

theorem witness_illegalWord_selects :
    (given 0x10000001 .none).rst = false ∧ (given 0x10000001 .none).cmd = some 0x10000001 ∧
      ∀ r ∈ rows, r.selects 0x10000001 = false := by decide
theorem witness_illegalWord_opcode :
    (0#32).extractLsb' 28 4 = 0 ∧ 0xB ≤ ((0xB0000000#32).extractLsb' 28 4).toNat := by decide
theorem witness_illegalWord_notEncoded : ∀ i : Instr, i.wellFormed = true → encode i ≠ 0x10000001 := by
  intro i _ h
  have op := congrArg (fun w : CmdWord => w.extractLsb' 28 4) h
  have v := congrArg fieldV h
  cases i <;> simp only [encode, op_commandWord] at op <;> revert op <;> try decide
  intro _
  unfold encode at v
  rw [show (0 : BitVec 1) = BitVec.ofBool false from rfl, fieldV_commandWord] at v
  revert v
  decide

theorem witness_stepRunsTheDecodedCommand :
    (given 0x5BF00000 .none).rst = false ∧ (given 0x5BF00000 .none).cmd = some 0x5BF00000 ∧
      decode 0x5BF00000 = some (.readEntry 191) := by decide
theorem witness_stepWithoutCommand : State.reset.rst = false ∧ State.reset.cmd = none := ⟨rfl, rfl⟩
theorem witness_placedCommand : Instr.wellFormed (.setEnabled 255 true) = true := by decide
theorem witness_reset : ({ State.reset with rst := true } : State).rst = true ∧ ({ State.reset with rst := true } : State).cmd = none :=
  ⟨rfl, rfl⟩

/-- A command whose payload fits, presented alone, is whole. -/
theorem whole_of {s : State} {w : CmdWord} {i : Instr} (hw : s.cmd = some w) (hd : decode w = some i)
    (hf : payloadFits s.cfg (payloadKind i) s.dataIn = true) : s.commandWhole := by
  intro w' i' h1 h2
  rw [hw] at h1
  cases h1
  rw [hd] at h2
  cases h2
  exact hf

theorem witness_resetOver :
    ({ processing (frameOf 4) with rst := true } : State).rst = true ∧
      ({ processing (frameOf 4) with rst := true } : State).cmd = some 0x70000000 ∧
      ({ processing (frameOf 4) with rst := true } : State).commandWhole :=
  ⟨rfl, rfl, whole_of rfl (show decode 0x70000000 = some .process by decide) (by decide)⟩

theorem witness_setLatch :
    (State.reset.rt[(5 : InIdx)].lt = false ∧ true = true) ∧
      (with5 ⟨5, true, true⟩ ⟨true, true⟩ State.reset).rt[(5 : InIdx)].lt = true := by decide +kernel
theorem witness_indexOutOfRange : 191 < 192 ∧ 191 < 255 := by decide

/-- The table whose entries are their defaults with the latch flag set. -/
def latchedTable : TableWords := Vector.ofFn fun k => entryWord ⟨k, false, true⟩

theorem latchedTable_get (k : InIdx) : latchedTable[k] = entryWord ⟨k, false, true⟩ := by simp [latchedTable]
theorem identityTable_get (k : InIdx) : identityTable[k] = entryWord ⟨k, true, false⟩ := by
  simp [identityTable, defaultWord, entryWord]
theorem defaultTable_get (k : InIdx) : defaultTable[k] = entryWord (RouteEntry.reset k) := by
  simp [defaultTable, defaultWord, entryWord, RouteEntry.reset]

theorem witness_loadTable :
    (given 0x40000000 (.table latchedTable)).dataIn = .table latchedTable ∧
      (∀ k : InIdx, latchedTable[k].extractLsb' 2 6 = 0) ∧
      (∀ k : InIdx, (latchedTable[k].extractLsb' 8 8).toNat ≤ 191) ∧
      (latchedTable[(191 : InIdx)].extractLsb' 8 8).toNat = 191 := by
  have h : ∀ k : InIdx, (latchedTable[k].extractLsb' 8 8).toNat = k.val := fun k => by
    rw [latchedTable_get]
    exact wordOut_entryWord _
  refine ⟨rfl, fun k => ?_, fun k => ?_, h 191⟩
  · rw [latchedTable_get]
    exact wordReserved_entryWord _
  · rw [h]
    omega
theorem witness_loadTable_cells :
    (State.reset.rt[(0 : InIdx)].lt = false ∧ latchedTable[(0 : InIdx)].getLsbD 0 = true) ∧
      (with5 ⟨5, true, true⟩ ⟨true, true⟩ State.reset).rt[(5 : InIdx)].lt = true ∧
      identityTable[(0 : InIdx)].getLsbD 0 = false := by decide +kernel
theorem witness_loadTable_reserved :
    (given 0x40000000 (.table (identityTable.set 191 0x0004))).dataIn = .table (identityTable.set 191 0x0004) ∧
      (identityTable.set 191 0x0004)[(191 : InIdx)].extractLsb' 2 6 ≠ 0 ∧
      (identityTable.set 0 0x0080)[(0 : InIdx)].extractLsb' 2 6 ≠ 0 := ⟨rfl, by simp, by simp⟩
theorem witness_loadTable_range :
    (given 0x40000000 (.table (identityTable.set 5 0xC002))).dataIn = .table (identityTable.set 5 0xC002) ∧
      (∀ k : InIdx, (identityTable.set 5 0xC002)[k].extractLsb' 2 6 = 0) ∧
      ∃ k : InIdx, 191 < ((identityTable.set 5 0xC002)[k].extractLsb' 8 8).toNat := by
  refine ⟨rfl, fun k => ?_, 5, by simp⟩
  by_cases h : 5 = k.val
  · simp [← h]
  · rw [Fin.getElem_fin, Vector.getElem_set_ne _ _ h]
    exact (congrArg wordReserved (identityTable_get k)).trans (wordReserved_entryWord _)
theorem witness_loadReadTable :
    (given 0x40000000 (.table defaultTable)).dataIn = .table defaultTable ∧
      ∀ k : InIdx, exec (.readEntry k.val) (given 0x40000000 (.table defaultTable)) =
        respond (.entry defaultTable[k]) (given 0x40000000 (.table defaultTable)) := by
  refine ⟨rfl, fun k => ?_⟩
  rw [exec_readEntry, execReadEntry, withIndex_fin, defaultTable_get, given, present_rt, reset_rt, routingTable_reset_get]

theorem witness_validFrame :
    (processing (frameOf 0x04)).dataIn = .bytes (frameOf 0x04).bytes ∧
      (frameOf 0x04).bytes.length ≤ (processing (frameOf 0x04)).cfg.maxPayload := ⟨rfl, by decide⟩
theorem witness_process_short :
    (given 0x70000000 (.bytes (List.replicate 24 0x5A))).dataIn = .bytes (List.replicate 24 0x5A) ∧
      (List.replicate 24 (0x5A : Byte)).length ≤ 257 ∧ (List.replicate 24 (0x5A : Byte)).length < 25 := ⟨rfl, by decide⟩
theorem witness_process_marker :
    (given 0x70000000 (.bytes (0x5B :: List.replicate 24 0))).dataIn = .bytes (0x5B :: List.replicate 24 0) ∧
      ((0x5B : Byte) :: List.replicate 24 0).length ≤ 257 ∧
      25 ≤ ((0x5B : Byte) :: List.replicate 24 0).length ∧ ((0x5B : Byte) :: List.replicate 24 0)[0]? ≠ some 0x5A :=
  ⟨rfl, by decide⟩
theorem witness_edgeDetector :
    ((with5 ⟨20, true, true⟩ ⟨false, true⟩ (processing (frameOf 4))).rt[(5 : InIdx)].en = true ∧
      (with5 ⟨20, true, true⟩ ⟨false, true⟩ (processing (frameOf 4))).rt[(5 : InIdx)].lt = true) ∧
      (processing (frameOf 4)).rt[(5 : InIdx)].en = false ∧ (processing (frameOf 4)).rt[(5 : InIdx)].lt = false := by
  decide +kernel

/-- A table whose entries 3 and 10 both target output bit 7; entry 10's enable is `b`. -/
def fan (b : Bit) : RoutingTable := (RoutingTable.reset.set 3 ⟨7, true, false⟩).set 10 ⟨7, b, false⟩
theorem fan_ten (b : Bit) : (fan b)[(10 : InIdx)] = ⟨7, b, false⟩ := by simp [fan]
theorem fan_three (b : Bit) : (fan b)[(3 : InIdx)] = ⟨7, true, false⟩ := by simp [fan]

theorem fan_enabled {b : Bit} {k : InIdx} (h : (fan b)[k].en = true) : k = 3 ∨ (k = 10 ∧ b = true) := by
  by_cases h3 : k = 3
  · exact .inl h3
  · by_cases h10 : k = 10
    · subst h10
      exact .inr ⟨rfl, by rw [fan_ten] at h; exact h⟩
    · have n3 : 3 ≠ k.val := fun e => h3 (Fin.ext e.symm)
      have n10 : 10 ≠ k.val := fun e => h10 (Fin.ext e.symm)
      simp [fan, Vector.getElem_set_ne, n3, n10, RoutingTable.reset, RouteEntry.reset] at h

/-- PROCESS of a frame presented on a state that holds such a table. -/
def fanState (b : Bit) : State := { processing (frameOf 0x10) with rt := fan b }

theorem fanState_frame (b : Bit) :
    (fanState b).dataIn = .bytes (frameOf 0x10).bytes ∧ (frameOf 0x10).bytes.length ≤ (fanState b).cfg.maxPayload :=
  ⟨rfl, (by decide : (frameOf 0x10).bytes.length ≤ 257)⟩

/-- With `fanState_frame`: output bit 7 has a last target, and output bit 8 has none. -/
theorem witness_lastToTarget :
    lastToTarget (fanState true).rt 7 10 ∧
      ∀ k : InIdx, (fanState true).rt[k].en = true → (fanState true).rt[k].out ≠ 8 := by
  change lastToTarget (fan true) 7 10 ∧ ∀ k : InIdx, (fan true)[k].en = true → (fan true)[k].out ≠ 8
  refine ⟨⟨by rw [fan_ten], by rw [fan_ten], fun j h he => ?_⟩, fun k h => ?_⟩
  · rcases fan_enabled he with rfl | ⟨rfl, _⟩ <;> revert h <;> decide
  · rcases fan_enabled h with rfl | ⟨rfl, _⟩
    · rw [fan_three]
      decide
    · rw [fan_ten]
      decide

/-- With `fanState_frame`: disabling entry 10 leaves entry 3 as the last target, as in `fanState false`, where in turn
entry 3 is the only one. -/
theorem witness_disabling :
    (fanState true).rt[(10 : InIdx)].en = true ∧ lastToTarget (fanState false).rt 7 3 ∧
      (fanState false).rt[(3 : InIdx)].en = true ∧
      ∀ j : InIdx, j ≠ 3 → (fanState false).rt[j].en = true → (fanState false).rt[j].out ≠ 7 := by
  change (fan true)[(10 : InIdx)].en = true ∧ lastToTarget (fan false) 7 3 ∧ (fan false)[(3 : InIdx)].en = true ∧
    ∀ j : InIdx, j ≠ 3 → (fan false)[j].en = true → (fan false)[j].out ≠ 7
  refine ⟨by rw [fan_ten], ⟨by rw [fan_three], by rw [fan_three], fun j h he => ?_⟩, by rw [fan_three], fun j h he => ?_⟩
  · rcases fan_enabled he with rfl | ⟨_, hb⟩
    · exact absurd h (by decide)
    · cases hb
  · rcases fan_enabled he with rfl | ⟨_, hb⟩
    · exact absurd rfl h
    · cases hb
theorem witness_frameLayout :
    ∃ t F, exec .process (processing (frameOf 4)) = .next t ∧ t.resp = okWith (.frame F) ∧
      (processing (frameOf 4)).cfg.crcOrder = .hiFirst := by
  obtain ⟨t, F, h⟩ := process_answers witness_validFrame.1 witness_validFrame.2
  exact ⟨t, F, h.1, h.2, rfl⟩
theorem witness_frameLayout_loFirst :
    ∃ (s t : State) (F : List Byte), exec .process s = .next t ∧ t.resp = okWith (.frame F) ∧
      s.cfg.crcOrder = .loFirst := by
  obtain ⟨t, F, h⟩ := process_answers (f := frameOf 4)
    (s := { processing (frameOf 4) with cfg := { crcOrder := .loFirst, maxPayload := 28 } }) rfl (by decide)
  exact ⟨_, t, F, h.1, h.2, rfl⟩
theorem witness_framePassesCheck :
    ∃ (s t u : State) (F : List Byte), exec .process s = .next t ∧ t.resp = okWith (.frame F) ∧ u.cfg = s.cfg ∧
      u.cfg.wf ∧ u.dataIn = .bytes F := by
  obtain ⟨t, F, h⟩ := process_answers witness_validFrame.1 witness_validFrame.2
  exact ⟨_, t, { processing (frameOf 4) with dataIn := .bytes F }, F, h.1, h.2, rfl, (show Config.reference.wf by decide), rfl⟩
theorem witness_allDisabled :
    (processing (frameOf 4)).dataIn = .bytes (frameOf 4).bytes ∧
      (frameOf 4).bytes.length ≤ (processing (frameOf 4)).cfg.maxPayload ∧
      ∀ k : InIdx, (processing (frameOf 4)).rt[k].en = false := by
  refine ⟨witness_validFrame.1, witness_validFrame.2, fun k => ?_⟩
  rw [processing, given, present_rt, reset_rt, routingTable_reset_get]
  rfl
theorem witness_idempotent : ∃ t, exec .process (processing (frameOf 4)) = .next t := by
  obtain ⟨t, _, h⟩ := process_answers witness_validFrame.1 witness_validFrame.2
  exact ⟨t, h.1⟩
theorem witness_trailingBytes :
    (processing (longFrameOf 4)).dataIn = .bytes (longFrameOf 4).bytes ∧
      (processing (frameOf 4)).dataIn = .bytes (frameOf 4).bytes ∧
      (frameOf 4).bytes.length ≤ (processing (frameOf 4)).cfg.maxPayload ∧
      (longFrameOf 4).bytes.length ≤ (processing (longFrameOf 4)).cfg.maxPayload ∧
      (frameOf 4).bytes.take 25 = (longFrameOf 4).bytes.take 25 ∧
      (processing (frameOf 4)).rt = (processing (longFrameOf 4)).rt ∧
      (processing (frameOf 4)).ls = (processing (longFrameOf 4)).ls ∧
      (processing (frameOf 4)).cfg.crcOrder = (processing (longFrameOf 4)).cfg.crcOrder := by
  exact ⟨rfl, rfl, witness_validFrame.2, by decide, by decide, rfl, rfl, rfl⟩
theorem witness_identityTable :
    ∃ s : State, s.dataIn = .bytes (frameOf 4).bytes ∧ (frameOf 4).bytes.length ≤ s.cfg.maxPayload ∧
      ∀ k : InIdx, s.rt[k] = { out := k, en := true, lt := false } :=
  ⟨{ processing (frameOf 4) with rt := Vector.ofFn fun k => ⟨k, true, false⟩ }, witness_validFrame.1,
    witness_validFrame.2, by simp⟩
theorem witness_latchToggle :
    (with5 ⟨20, true, true⟩ ⟨false, false⟩ State.reset).rt[(5 : InIdx)].en = true ∧
      (with5 ⟨20, true, true⟩ ⟨false, false⟩ State.reset).rt[(5 : InIdx)].lt = true ∧
      ∀ f ∈ [frameOf 0, frameOf 4, frameOf 0, frameOf 4], f.bytes.length ≤ State.reset.cfg.maxPayload := by
  decide +kernel

theorem witness_crc16 :
    (given 0x90000000 (.bytes [])).dataIn = .bytes [] ∧
      (given 0x90000000 (.bytes (List.replicate 257 0))).dataIn = .bytes (List.replicate 257 0) ∧
      (List.replicate 257 (0 : Byte)).length ≤ State.reset.cfg.maxPayload := ⟨rfl, rfl, by rw [List.length_replicate]; decide⟩
theorem witness_crcCheck :
    (given 0xA0000000 (.bytes [0x12])).dataIn = .bytes [0x12] ∧ ([0x12] : List Byte).length < 2 ∧ ([0xFF, 0xFF] : List Byte) = [] ++ [0xFF, 0xFF] ∧
      (given 0xA0000000 (.bytes [0xFF, 0xFF])).dataIn = .bytes [0xFF, 0xFF] ∧
      ([0xFF, 0xFF] : List Byte).length ≤ State.reset.cfg.maxPayload := ⟨rfl, by decide, rfl, rfl, by decide⟩
theorem witness_appendedChecksum :
    ([] : List Byte).length + 2 ≤ State.reset.cfg.maxPayload ∧
      (given 0xA0000000 (.bytes ([] ++ crcBytes .hiFirst (crc16 [])))).dataIn = .bytes ([] ++ crcBytes .hiFirst (crc16 [])) :=
  ⟨by decide, rfl⟩
theorem witness_readSignal :
    (given 0x80107000 (.bytes [0x5A, 0x80])).dataIn = .bytes [0x5A, 0x80] ∧
      ([0x5A, 0x80] : List Byte).length ≤ State.reset.cfg.maxPayload ∧ ([0x5A, 0x80] : List Byte).length ≤ 1 + 1 ∧
      ([0x5A, 0x80] : List Byte)[0 + 1]? = some 0x80 := ⟨rfl, by decide⟩
theorem witness_addressForms : ['7', '1'] ≠ [] ∧ ∀ c ∈ ['7', '1'], '0' ≤ c ∧ c ≤ '9' := by simp
theorem witness_byteIndexAbove255 :
    State.reset.cfg.wf ∧ ([] : List Byte).length ≤ State.reset.cfg.maxPayload ∧ resolveAddress "I2048".toList = .ok ⟨256, 7⟩ ∧ 255 < 256 := by decide +kernel

theorem witness_errorResponse :
    ∃ t r, step (given 0 .none) = .next t ∧ t.resp = some r ∧ r.st ≠ .ok ∧ (given 0 .none).rst = false :=
  ⟨_, _, rfl, rfl, by decide, rfl⟩
theorem witness_tableChanges : ∃ t, step (given 0x10514000 .none) = .next t ∧ t.rt ≠ (given 0x10514000 .none).rt := by
  obtain ⟨t, h, ht⟩ := next_of (r := step (given 0x10514000 .none)) (fun t => decide (t.rt[(5 : InIdx)].out = 20))
    (by decide +kernel)
  refine ⟨t, h, fun e => ?_⟩
  rw [e] at ht
  revert ht
  decide +kernel
theorem witness_cellChanges_process :
    ∃ t, step (with5 ⟨20, true, true⟩ ⟨false, true⟩ (processing (frameOf 4))) = .next t ∧
      t.ls[(5 : InIdx)] ≠ (with5 ⟨20, true, true⟩ ⟨false, true⟩ (processing (frameOf 4))).ls[(5 : InIdx)] := by
  obtain ⟨t, h, ht⟩ := next_of (r := step (with5 ⟨20, true, true⟩ ⟨false, true⟩ (processing (frameOf 4))))
    (fun t => decide (t.ls[(5 : InIdx)].prev = true)) (by decide +kernel)
  refine ⟨t, h, fun e => ?_⟩
  rw [e] at ht
  revert ht
  decide +kernel
/-- The clearing clauses: a flag that goes from 0 to 1 over a cell at (1, 1). -/
theorem witness_cellChanges_clear :
    ∃ t, step (with5 ⟨5, true, false⟩ ⟨true, true⟩ (given 0x30500001 .none)) = .next t ∧
      (with5 ⟨5, true, false⟩ ⟨true, true⟩ (given 0x30500001 .none)).rt[(5 : InIdx)].lt = false ∧
      t.rt[(5 : InIdx)].lt = true ∧
      t.ls[(5 : InIdx)] ≠ (with5 ⟨5, true, false⟩ ⟨true, true⟩ (given 0x30500001 .none)).ls[(5 : InIdx)] := by
  obtain ⟨t, h, ht⟩ := next_of (r := step (with5 ⟨5, true, false⟩ ⟨true, true⟩ (given 0x30500001 .none)))
    (fun t => t.rt[(5 : InIdx)].lt && decide (t.ls[(5 : InIdx)].prev = false)) (by decide +kernel)
  simp only [Bool.and_eq_true] at ht
  refine ⟨t, h, by decide +kernel, ht.1, fun e => ?_⟩
  have := ht.2
  rw [e] at this
  revert this
  decide +kernel
/-- The keeping clause: a flag written 1 over 1, by a command that is not PROCESS. -/
theorem witness_latchFlagKept :
    ∃ t, step (with5 ⟨5, true, true⟩ ⟨true, true⟩ (given 0x30500001 .none)) = .next t ∧
      (with5 ⟨5, true, true⟩ ⟨true, true⟩ (given 0x30500001 .none)).rt[(5 : InIdx)].lt = true ∧
      ∀ w, (with5 ⟨5, true, true⟩ ⟨true, true⟩ (given 0x30500001 .none)).cmd = some w → decode w ≠ some .process := by
  obtain ⟨t, h, _⟩ := next_of (r := step (with5 ⟨5, true, true⟩ ⟨true, true⟩ (given 0x30500001 .none)))
    (fun _ => true) (by decide +kernel)
  refine ⟨t, h, by decide +kernel, fun w hw => ?_⟩
  have e : w = 0x30500001 := by simpa [with5, given] using hw.symm
  subst e
  decide

/-- The state after reset is good, and a step from it with a command answers a next state. -/
theorem witness_invariant : (given 0 .none).Inv ∧ ∃ t, step (given 0 .none) = .next t :=
  ⟨⟨by decide, fun r h => by simp [given] at h⟩, _, rfl⟩
theorem witness_wholeCommand :
    (processing (frameOf 4)).rst = false ∧ (processing (frameOf 4)).cmd = some 0x70000000 ∧
      (processing (frameOf 4)).commandWhole :=
  ⟨rfl, rfl, whole_of rfl (show decode 0x70000000 = some .process by decide) (by decide)⟩
theorem witness_stepKeeps : ∃ t, step State.reset = .next t := ⟨_, rfl⟩
theorem witness_refused :
    ((given 0x90000000 (.bytes (List.replicate 258 0))).cfg.maxPayload < (List.replicate 258 (0 : Byte)).length ∧
      payloadKind .crc16 = .bytes) ∧
      (∀ p, State.reset.dataIn ≠ .bytes p) ∧ (∀ w, State.reset.dataIn ≠ .table w) ∧ payloadKind .loadTable = .table := by
  refine ⟨⟨by rw [List.length_replicate]; decide, rfl⟩, ?_, ?_, rfl⟩ <;> intro _ h <;> cases h
/-- The core's state and the configuration as `commandOn` takes them. -/
theorem witness_commandOn :
    ∃ t, commandOn Config.reference 0x10514000 .none State.reset.toCoreState = some t := by
  cases h : commandOn Config.reference 0x10514000 .none State.reset.toCoreState with
  | some t => exact ⟨t, rfl⟩
  | none =>
    have : (commandOn Config.reference 0x10514000 .none State.reset.toCoreState).isSome = true := by decide +kernel
    rw [h] at this
    cases this
/-- One host reads an entry between the other's command and its end. -/
theorem witness_observingHost :
    Interleaving [[issue (.setOutput 5 20) .none], [issue (.readEntry 5) .none]]
        [issue (.readEntry 5) .none, issue (.setOutput 5 20) .none] ∧
      (∀ r ∈ [issue (.readEntry 5) .none], requestObserves r = true ∧ requestWhole State.reset.cfg r) ∧
      ∃ q, serve [issue (.setOutput 5 20) .none] State.reset = some q := by
  refine ⟨?_, ?_, ?_⟩
  · refine Interleaving.next (before := [[issue (.setOutput 5 20) .none]]) (after := []) ?_
    refine Interleaving.next (before := []) (after := [[]]) ?_
    exact .done (by simp)
  · intro r hr
    rw [List.mem_singleton] at hr
    subst hr
    refine ⟨by decide, fun i h => ?_⟩
    rw [show decode (encode (.readEntry 5)) = some (.readEntry 5) by decide] at h
    cases h
    rfl
  · obtain ⟨t, h, _⟩ := next_of (r := serveOne (issue (.setOutput 5 20) .none) State.reset) (fun _ => true)
      (by decide +kernel)
    exact ⟨_, by simp only [serve, h, Option.map_some]; rfl⟩

end Sys2Proof.Tests
end

section
/-! What each command can do where it answers a next state: one inversion lemma per command, and one for the commands
that write neither register file. -/

namespace Sys2Proof.Machine

/-- If `withIndex` answers a next state, it ran on an index in range or raised `RoutingIndexOutOfRange`. -/
theorem withIndex_next {k : Nat} {s t : State} {run : InIdx → Result} (h : withIndex k s run = .next t) :
    (∃ i : InIdx, k = i.val ∧ run i = .next t) ∨
      (192 ≤ k ∧ t = s.setResp (some { st := .routingIndexOutOfRange, data := .none })) := by
  rcases withIndex_cases k s run with ⟨hk, e⟩ | ⟨hk, e⟩ <;> rw [e] at h
  · exact .inl ⟨⟨k, hk⟩, rfl, h⟩
  · exact .inr ⟨hk, (raise_eq_next ..).1 h⟩

/-- All SET_OUTPUT can do (R120): write one target, or report an index out of range. -/
theorem execSetOutput_next {k o : Nat} {s t : State} (h : execSetOutput k o s = .next t) :
    (∃ i p : InIdx, k = i.val ∧ o = p.val ∧
      t = (s.setEntry i { s.rt[i] with out := p }).setResp (okWith .none)) ∨
      ((192 ≤ k ∨ 192 ≤ o) ∧ t = s.setResp (some { st := .routingIndexOutOfRange, data := .none })) := by
  rcases withIndex_next h with ⟨i, hk, hi⟩ | ⟨hk, ht⟩
  · rcases withIndex_next hi with ⟨p, ho, hp⟩ | ⟨ho, ht⟩
    · exact .inl ⟨i, p, hk, ho, (respond_eq_next ..).1 hp⟩
    · exact .inr ⟨.inr ho, ht⟩
  · exact .inr ⟨.inl hk, ht⟩

/-- All SET_ENABLED can do (R121): write one enable flag, or report an index out of range. -/
theorem execSetEnabled_next {k : Nat} {e : Bit} {s t : State} (h : execSetEnabled k e s = .next t) :
    (∃ i : InIdx, k = i.val ∧ t = (s.setEntry i { s.rt[i] with en := e }).setResp (okWith .none)) ∨
      (192 ≤ k ∧ t = s.setResp (some { st := .routingIndexOutOfRange, data := .none })) :=
  (withIndex_next h).imp_left fun ⟨i, hk, hi⟩ => ⟨i, hk, (respond_eq_next ..).1 hi⟩

/-- All SET_LATCH can do (R122): write one latch flag and its cell, or report an index out of range. -/
theorem execSetLatch_next {k : Nat} {l : Bit} {s t : State} (h : execSetLatch k l s = .next t) :
    (∃ i : InIdx, k = i.val ∧
      t = ((s.setCell i (latchFlagWritten s.rt[i].lt l s.ls[i])).setEntry i { s.rt[i] with lt := l }).setResp
        (okWith .none)) ∨
      (192 ≤ k ∧ t = s.setResp (some { st := .routingIndexOutOfRange, data := .none })) :=
  (withIndex_next h).imp_left fun ⟨i, hk, hi⟩ => ⟨i, hk, (respond_eq_next ..).1 hi⟩

/-- All LOAD_TABLE can do (R123): replace the table whole and clear the cells it must, or report what its checks find. -/
theorem execLoadTable_next {s t : State} (h : execLoadTable s = .next t) :
    ∃ w, s.dataIn = .table w ∧
      ((∃ rt, checkTable w = .ok rt ∧
        t = { s with rt := rt, ls := clearedForTable s.rt rt s.ls }.setResp (okWith .none)) ∨
        ∃ e, checkTable w = .error e ∧ t = s.setResp (some { st := e, data := .none })) := by
  obtain ⟨w, hw, hr⟩ := withTable_next h
  refine ⟨w, hw, ?_⟩
  cases hc : checkTable w with
  | ok rt => rw [hc] at hr; exact .inl ⟨rt, rfl, (respond_eq_next ..).1 hr⟩
  | error e => rw [hc] at hr; exact .inr ⟨e, rfl, (raise_eq_next ..).1 hr⟩

/-- The commands that write neither register file do nothing but respond (R101, R102, R124, R125, R170). -/
theorem exec_readOnly_next {i : Instr} {s t : State} (hi : readOnly i = true) (h : exec i s = .next t) :
    ∃ r, t = s.setResp (some r) := by
  cases i with
  | readEntry k =>
    rcases withIndex_next (show execReadEntry k s = _ from h) with ⟨_, _, hr⟩ | ⟨_, ht⟩
    · exact ⟨_, (respond_eq_next ..).1 hr⟩
    · exact ⟨_, ht⟩
  | readLatch k =>
    rcases withIndex_next (show execReadLatch k s = _ from h) with ⟨_, _, hr⟩ | ⟨_, ht⟩
    · exact ⟨_, (respond_eq_next ..).1 hr⟩
    · exact ⟨_, ht⟩
  | readSignal bi j =>
    obtain ⟨_, _, _, hr⟩ := withBytes_next (show execReadSignal bi j s = _ from h)
    exact ⟨_, (respond_eq_next ..).1 hr⟩
  | crc16 =>
    obtain ⟨_, _, _, hr⟩ := withBytes_next (show execCrc16 s = _ from h)
    exact ⟨_, (respond_eq_next ..).1 hr⟩
  | crcCheck =>
    obtain ⟨p, _, _, hr⟩ := withBytes_next (show execCrcCheck s = _ from h)
    cases hc : crcCheck s.cfg.crcOrder p with
    | ok q => rw [hc] at hr; exact ⟨_, (respond_eq_next ..).1 hr⟩
    | error e => rw [hc] at hr; exact ⟨_, (raise_eq_next ..).1 hr⟩
  | setOutput _ _ | setEnabled _ _ | setLatch _ _ | loadTable | process => cases hi

end Sys2Proof.Machine
end

section
/-! The latch cells (R25, R26): what a written latch flag, PROCESS's loop, a command and a step do to one cell. -/

namespace Sys2Proof.Machine

/-! ### A written latch flag (R25) -/

@[simp] theorem latchFlagWritten_rise (c : LatchCell) : latchFlagWritten false true c = LatchCell.cleared := rfl

/-- Written 1 over 1 or written 0, the flag keeps the cell. -/
theorem latchFlagWritten_kept {old new : Bit} (h : old = true ∨ new = false) (c : LatchCell) :
    latchFlagWritten old new c = c := by
  rcases h with rfl | rfl <;> simp [latchFlagWritten]

@[simp] theorem latchFlagWritten_same (b : Bit) (c : LatchCell) : latchFlagWritten b b c = c :=
  latchFlagWritten_kept (by cases b <;> simp) c

@[simp] theorem clearedForTable_get (old new : RoutingTable) (ls : LatchStore) (k : InIdx) :
    (clearedForTable old new ls)[k] = latchFlagWritten old[k].lt new[k].lt ls[k] := by
  simp [clearedForTable]

/-! ### The loop of PROCESS -/

/-- The loop's body for entry `j` samples cell `j` where the entry is enabled and latched, and no other (R142). -/
theorem routeEntry_ls_get (rt : RoutingTable) (f : InFrame) (a : Pass) (j k : InIdx) :
    (routeEntry rt f a j).ls[k] =
      if k = j ∧ rt[j].en = true ∧ rt[j].lt = true then sampleLatch a.ls[j] (inBit f j) else a.ls[k] := by
  cases he : rt[j].en with
  | false => simp [routeEntry_disabled he]
  | true =>
    cases hl : rt[j].lt with
    | false => simp [routeEntry_direct he hl]
    | true =>
      rw [routeEntry_latch he hl]
      simp only [Fin.getElem_fin, Vector.getElem_set, Fin.ext_iff, eq_comm, and_true]

/-- The loop over any list of entries keeps the cell of an entry that is not both enabled and latched (R26). -/
theorem foldl_routeEntry_ls_kept {rt : RoutingTable} {k : InIdx} (h : ¬ (rt[k].en = true ∧ rt[k].lt = true))
    (f : InFrame) (ks : List InIdx) (a : Pass) : (ks.foldl (routeEntry rt f) a).ls[k] = a.ls[k] := by
  induction ks generalizing a with
  | nil => rfl
  | cons j ks ih =>
    have body : (routeEntry rt f a j).ls[k] = a.ls[k] := by
      rw [routeEntry_ls_get, if_neg (by rintro ⟨rfl, hj⟩; exact h hj)]
    exact (ih _).trans body

/-! ### One command -/

/-- PROCESS leaves the routing table, and the cell of every entry that is not both enabled and latched (R23, R26). -/
theorem execProcess_keeps {s t : State} (h : execProcess s = .next t) :
    t.rt = s.rt ∧ ∀ k : InIdx, ¬ (s.rt[k].en = true ∧ s.rt[k].lt = true) → t.ls[k] = s.ls[k] := by
  rcases execProcess_cases h with ⟨f, _, ht⟩ | ht | ht
  · obtain rfl := (respond_eq_next ..).1 ht
    exact ⟨rfl, fun k hk => foldl_routeEntry_ls_kept hk f _ _⟩
  all_goals
    obtain rfl := (raise_eq_next ..).1 ht
    exact ⟨rfl, fun _ _ => rfl⟩

/-- Every command but PROCESS touches a cell through its entry's latch flag alone (R25). -/
theorem exec_ls_get {i : Instr} {s t : State} (hi : i ≠ .process) (h : exec i s = .next t) (k : InIdx) :
    t.ls[k] = latchFlagWritten s.rt[k].lt t.rt[k].lt s.ls[k] := by
  cases i with
  | setOutput a o =>
    rcases execSetOutput_next h with ⟨j, p, _, _, rfl⟩ | ⟨_, rfl⟩
    · rw [setResp_rt, setEntry_rt_get]
      split <;> simp [*]
    · simp
  | setEnabled a e =>
    rcases execSetEnabled_next h with ⟨j, _, rfl⟩ | ⟨_, rfl⟩
    · rw [setResp_rt, setEntry_rt_get]
      split <;> simp [*]
    · simp
  | setLatch a l =>
    rcases execSetLatch_next h with ⟨j, _, rfl⟩ | ⟨_, rfl⟩
    · rw [setResp_rt, setResp_ls, setEntry_rt_get, setEntry_ls, setCell_ls_get]
      split <;> simp [*]
    · simp
  | loadTable =>
    obtain ⟨w, _, ⟨rt, _, rfl⟩ | ⟨e, _, rfl⟩⟩ := execLoadTable_next h
    · exact clearedForTable_get s.rt rt s.ls k
    · simp
  | process => exact absurd rfl hi
  | readEntry _ | readLatch _ | readSignal _ _ | crc16 | crcCheck =>
    obtain ⟨r, rfl⟩ := exec_readOnly_next rfl h
    simp

/-! ### One step -/

/-- All a step with no reset can do to a cell: PROCESS runs, which leaves the table and samples enabled latch entries
only, or the cell goes with its latch flag (R25, R26). -/
theorem step_ls_cases {s t : State} (hr : s.rst = false) (h : step s = .next t) (k : InIdx) :
    ((∃ w, s.cmd = some w ∧ decode w = some .process) ∧ t.rt = s.rt ∧
      (¬ (s.rt[k].en = true ∧ s.rt[k].lt = true) → t.ls[k] = s.ls[k])) ∨
      t.ls[k] = latchFlagWritten s.rt[k].lt t.rt[k].lt s.ls[k] := by
  rcases step_command_cases hr with ⟨_, e⟩ | ⟨w, hw, e⟩ <;> rw [e] at h
  · cases h
    simp
  · rcases runWord_cases exec w s.accept with ⟨i, hd, e⟩ | ⟨_, e⟩ <;> rw [e] at h
    · by_cases hi : i = .process
      · subst hi
        obtain ⟨hrt, hls⟩ := execProcess_keeps h
        exact .inl ⟨⟨w, hw, hd⟩, hrt, hls k⟩
      · exact .inr (exec_ls_get hi h k)
    · obtain rfl := (raise_eq_next ..).1 h
      simp

/-- Settles O50: a step that changes a cell either runs PROCESS on an enabled latch entry or writes a latch flag, and a
flag that does not rise keeps the cell. -/
theorem latchCellChangesInTwoWaysOnly : Obligations.LatchCellChangesInTwoWaysOnly := by
  intro s t k hr h hne
  rcases step_ls_cases hr h k with ⟨⟨w, hw, hd⟩, _, hkeep⟩ | hcell
  · obtain ⟨hen, hlt⟩ := not_imp_comm.1 hkeep hne
    exact .inl ⟨w, hw, hd, hen, hlt⟩
  · cases hs : s.rt[k].lt with
    | true => exact absurd (hcell.trans (latchFlagWritten_kept (.inl hs) _)) hne
    | false =>
      cases ht : t.rt[k].lt with
      | false => exact absurd (hcell.trans (latchFlagWritten_kept (.inr ht) _)) hne
      | true =>
        rw [hs, ht] at hcell
        exact .inr ⟨rfl, rfl, hcell⟩

/-- Settles O51: PROCESS writes no latch flag, and after any other step the cell is what the written flag makes of it. -/
theorem latchFlagTransitionClearsTheCell : Obligations.LatchFlagTransitionClearsTheCell := by
  intro s t k hr h
  rcases step_ls_cases hr h k with ⟨⟨w, hw, hd⟩, hrt, _⟩ | hcell
  · refine ⟨fun hs ht => ?_, fun _ hnot => absurd hd (hnot w hw)⟩
    rw [hrt, hs] at ht
    cases ht
  · refine ⟨fun hs ht => ?_, fun hkept _ => hcell.trans (latchFlagWritten_kept hkept _)⟩
    rw [hcell, hs, ht]
    rfl

end Sys2Proof.Machine
end

section
/-! The output data buffer (R44): what a write of one output bit does to each byte, and so to each bit. -/

namespace Sys2Proof.Machine

/-- A write of output bit `o` rewrites byte `o div 8` and keeps every other byte (R44). -/
theorem outPut_get (d : DataBuf) (o : OutIdx) (v : Bit) (i : Fin 24) :
    (outPut d o v)[i] = if i.val = o.val / 8 then putbit d[i] (7 - o.val % 8) v else d[i] := by
  unfold outPut
  by_cases h : i.val = o.val / 8
  · simp only [Fin.getElem_fin, h, Vector.getElem_set_self, if_true]
  · rw [if_neg h]
    exact Vector.getElem_set_ne _ _ (Ne.symm h)

/-- Settles O35: in the byte of `o` the written bit decides, and a bit of any other byte is kept with its byte. -/
theorem outputWriteReplacesOneBit : Obligations.OutputWriteReplacesOneBit := by
  intro d o v
  refine ⟨_, rfl, fun i j => ?_⟩
  rw [outPut_get]
  by_cases h : i.val = o.val / 8
  · rw [if_pos h, getLsbD_putbit j.isLt (by omega)]
    simp only [h, true_and]
  · rw [if_neg h, if_neg fun both => h both.1]

end Sys2Proof.Machine
end

section
/-! The rows of rule R63: what a selected row says of a word's fields, and with it that the word is the encoding of the
command the row builds (R61 to R66). -/

namespace Sys2Proof

/-! ### The fields of a word (R61) -/

/-- A field whose bits are all in a row's mask holds the row's bits in every word that selects the row. -/
theorem Row.selects_field {r : Row} {w : CmdWord} (h : r.selects w = true) {a n : Nat} {x : BitVec n}
    (hm : r.mask.extractLsb' a n = BitVec.allOnes n) (hp : r.pattern.extractLsb' a n = x) :
    w.extractLsb' a n = x := by
  have hw : w &&& r.mask = r.pattern := by simpa [Row.selects] using h
  rw [← hp, ← hw, BitVec.extractLsb'_and, hm, BitVec.and_allOnes]

/-- A word with RES = 0 is the command word of its other four fields. -/
theorem commandWord_eq {w : CmdWord} {op : BitVec 4} {a b : BitVec 8} {v : BitVec 1}
    (hop : w.extractLsb' 28 4 = op) (ha : w.extractLsb' 20 8 = a) (hb : w.extractLsb' 12 8 = b)
    (hres : w.extractLsb' 1 11 = 0) (hv : w.extractLsb' 0 1 = v) : commandWord op a b v = w := by
  subst hop ha hb hv
  have res (j : Nat) (hj : j < 11) : w.getLsbD (1 + j) = false := by
    simpa [hj] using congrArg (fun x : BitVec 11 => x.getLsbD j) hres
  apply BitVec.eq_of_getLsbD_eq
  intro i hi
  by_cases hr : 1 ≤ i ∧ i < 12
  · obtain ⟨j, rfl⟩ := Nat.exists_eq_add_of_le hr.1
    rw [res j (by omega)]
    have : j < 11 := by omega
    interval_cases j <;> simp [commandWord]
  · interval_cases i <;> simp [commandWord] at hr ⊢

theorem fieldA_lt (w : CmdWord) : fieldA w < 256 := BitVec.isLt _
theorem fieldB_lt (w : CmdWord) : fieldB w < 256 := BitVec.isLt _
theorem fieldJ_lt (w : CmdWord) : fieldJ w < 8 := BitVec.isLt _

theorem ofNat_fieldA (w : CmdWord) : BitVec.ofNat 8 (fieldA w) = w.extractLsb' 20 8 := BitVec.ofNat_toNat _ _
theorem ofNat_fieldB (w : CmdWord) : BitVec.ofNat 8 (fieldB w) = w.extractLsb' 12 8 := BitVec.ofNat_toNat _ _
theorem ofBool_fieldV (w : CmdWord) : BitVec.ofBool (fieldV w) = w.extractLsb' 0 1 := by
  apply BitVec.eq_of_getLsbD_eq
  intro i hi
  interval_cases i
  simp [fieldV]

/-- Field B is `j` alone where its upper five bits are 0. -/
theorem ofNat_fieldJ {w : CmdWord} (h : w.extractLsb' 15 5 = 0) :
    (BitVec.ofNat 3 (fieldJ w)).setWidth 8 = w.extractLsb' 12 8 := by
  have high (i : Nat) (hi : i < 5) : w.getLsbD (15 + i) = false := by
    simpa [hi] using congrArg (fun x : BitVec 5 => x.getLsbD i) h
  rw [fieldJ, BitVec.ofNat_toNat]
  apply BitVec.eq_of_getLsbD_eq
  intro i hi
  by_cases hl : i < 3
  · interval_cases i <;> simp
  · obtain ⟨j, rfl⟩ := Nat.exists_eq_add_of_le (not_lt.1 hl)
    have := high j (by omega)
    simp [hi, show 12 + (3 + j) = 15 + j by omega, this]

/-! ### The rows (R63) -/

/-- Every row fixes OP, at one of the ten opcodes of R62. -/
theorem rows_fix_op : ∀ r ∈ rows, r.mask.extractLsb' 28 4 = BitVec.allOnes 4 ∧
    r.pattern.extractLsb' 28 4 ≠ 0 ∧ (r.pattern.extractLsb' 28 4).toNat < 0xB := by decide

/-- Every row marks RES 0. -/
theorem rows_clear_res : ∀ r ∈ rows, r.mask.extractLsb' 1 11 = BitVec.allOnes 11 ∧
    r.pattern.extractLsb' 1 11 = 0 := by decide

/-- What a row reads from a word fits the operands' fields (R65). -/
theorem build_wellFormed {r : Row} (hr : r ∈ rows) (w : CmdWord) : (r.build w).wellFormed = true := by
  simp only [rows, List.mem_cons, List.not_mem_nil, or_false] at hr
  rcases hr with rfl | rfl | rfl | rfl | rfl | rfl | rfl | rfl | rfl | rfl <;>
    simp [Instr.wellFormed, fieldA_lt, fieldB_lt, fieldJ_lt]

/-- A word that selects a row is the encoding of the command the row builds from it: OP and the fields marked 0 are the
row's, and every other field is an operand the row reads (R63, R64). -/
theorem encode_build {r : Row} {w : CmdWord} (hr : r ∈ rows) (h : r.selects w = true) : encode (r.build w) = w := by
  have res : w.extractLsb' 1 11 = 0 := Row.selects_field h (rows_clear_res r hr).1 (rows_clear_res r hr).2
  have op := Row.selects_field h (rows_fix_op r hr).1 rfl
  have zero (a n : Nat) := Row.selects_field h (a := a) (n := n) (x := 0)
  have opndA := (ofNat_fieldA w).symm
  have opndB := (ofNat_fieldB w).symm
  have opndV := (ofBool_fieldV w).symm
  simp only [rows, List.mem_cons, List.not_mem_nil, or_false] at hr
  rcases hr with rfl | rfl | rfl | rfl | rfl | rfl | rfl | rfl | rfl | rfl
  · exact commandWord_eq op opndA opndB res (zero 0 1 rfl rfl) -- SET_OUTPUT
  · exact commandWord_eq op opndA (zero 12 8 rfl rfl) res opndV -- SET_ENABLED
  · exact commandWord_eq op opndA (zero 12 8 rfl rfl) res opndV -- SET_LATCH
  · exact commandWord_eq op (zero 20 8 rfl rfl) (zero 12 8 rfl rfl) res (zero 0 1 rfl rfl) -- LOAD_TABLE
  · exact commandWord_eq op opndA (zero 12 8 rfl rfl) res (zero 0 1 rfl rfl) -- READ_ENTRY
  · exact commandWord_eq op opndA (zero 12 8 rfl rfl) res (zero 0 1 rfl rfl) -- READ_LATCH
  · exact commandWord_eq op (zero 20 8 rfl rfl) (zero 12 8 rfl rfl) res (zero 0 1 rfl rfl) -- PROCESS
  · have opndJ := (ofNat_fieldJ (zero 15 5 rfl rfl)).symm
    exact commandWord_eq op opndA opndJ res (zero 0 1 rfl rfl) -- READ_SIGNAL
  · exact commandWord_eq op (zero 20 8 rfl rfl) (zero 12 8 rfl rfl) res (zero 0 1 rfl rfl) -- CRC16
  · exact commandWord_eq op (zero 20 8 rfl rfl) (zero 12 8 rfl rfl) res (zero 0 1 rfl rfl) -- CRC_CHECK

/-- The decoder finds nothing exactly where no row is selected (R64, R66). -/
theorem decode_eq_none {w : CmdWord} : decode w = none ↔ ∀ r ∈ rows, r.selects w = false := by
  simp [decode]

end Sys2Proof

namespace Sys2Proof.Machine

/-- A step on a word that is no command raises `IllegalCommand` (R66). -/
theorem step_illegal {s : State} {w : CmdWord} (hr : s.rst = false) (hc : s.cmd = some w) (hd : decode w = none) :
    step s = raise .illegalCommand s.accept := by
  rcases step_command_cases hr with ⟨hn, _⟩ | ⟨v, hv, e⟩
  · rw [hc] at hn
    cases hn
  · obtain rfl : w = v := by simpa [hc] using hv
    rcases runWord_cases exec w s.accept with ⟨i, hi, _⟩ | ⟨_, h⟩
    · rw [hd] at hi
      cases hi
    · exact e.trans h

/-- Settles O5: with no row selected the step raises on the accepted state; a selected row shows its OP in the word, and
makes the word the encoding of the well-formed command it builds. -/
theorem illegalWordRespondsAndWritesNothing : Obligations.IllegalWordRespondsAndWritesNothing := by
  refine ⟨fun s w hr hc hn => ?_, fun w hop r hr => ?_, fun w hw r hr => ?_⟩
  · exact ⟨_, step_illegal hr hc (decode_eq_none.2 hn), rfl, rfl, rfl⟩
  · obtain ⟨hm, hzero, hlt⟩ := rows_fix_op r hr
    refine Bool.eq_false_iff.2 fun h => ?_
    rw [Row.selects_field h hm rfl] at hop
    rcases hop with hop | hop
    · exact hzero hop
    · omega
  · exact Bool.eq_false_iff.2 fun h => hw _ (build_wellFormed hr w) (encode_build hr h)

end Sys2Proof.Machine
end

section
/-! The outbound frame of PROCESS (R82, R83): its length and its fixed bytes. -/

namespace Sys2Proof.Machine

@[simp] theorem crcBytes_length (order : CrcOrder) (c : Crc) : (crcBytes order c).length = 2 := by cases order <;> rfl

@[simp] theorem outFrame_length (order : CrcOrder) (d : DataBuf) : (outFrame order d).length = outLen := by
  simp [outFrame]

/-- `F[0]` is the marker (R82). -/
theorem outFrame_marker (order : CrcOrder) (d : DataBuf) : (outFrame order d)[0]? = some outMark := rfl

/-- `F[25]` is the status byte (R82). -/
theorem outFrame_status (order : CrcOrder) (d : DataBuf) : (outFrame order d)[25]? = some statusByte := by
  rw [outFrame, List.getElem?_append_left (by simp)]
  simp [frameBody]

/-- The bytes from `F[26]` on are the checksum's two bytes, in `CRC_ORDER` (R45, R83). -/
theorem outFrame_checksum (order : CrcOrder) (d : DataBuf) (i : Nat) :
    (outFrame order d)[26 + i]? = (crcBytes order (crc16 ((outFrame order d).take 26)))[i]? := by
  rw [outFrame_take, outFrame, List.getElem?_append_right (by simp)]
  simp

/-- Where PROCESS answers a frame, it is the outbound frame of some output data, in the configuration's byte order. -/
theorem execProcess_frame_eq {s t : State} {F : List Byte} (h : execProcess s = .next t)
    (ht : t.resp = okWith (.frame F)) : ∃ d : DataBuf, F = outFrame s.cfg.crcOrder d := by
  rcases execProcess_cases h with ⟨f, _, hn⟩ | hn | hn
  · obtain rfl := (respond_eq_next ..).1 hn
    exact ⟨(routeFrame s.rt f s.ls).data, by simpa [okWith, eq_comm] using ht⟩
  all_goals
    obtain rfl := (raise_eq_next ..).1 hn
    simp [okWith] at ht

/-- Settles O26: the frame is an outbound frame, and its last two bytes are read off in the configured order. -/
theorem processFrameHasTheOutboundLayout : Obligations.ProcessFrameHasTheOutboundLayout := by
  intro s t F h ht
  obtain ⟨d, rfl⟩ := execProcess_frame_eq h ht
  refine ⟨outFrame_length .., outFrame_marker .., outFrame_status .., fun ho => ?_, fun ho => ?_⟩ <;> rw [ho]
  · exact ⟨outFrame_checksum .hiFirst d 0, outFrame_checksum .hiFirst d 1⟩
  · exact ⟨outFrame_checksum .loFirst d 0, outFrame_checksum .loFirst d 1⟩

end Sys2Proof.Machine
end

section
/-! The address resolver (R90 to R93) on texts with nothing to normalise: the two address forms. -/

namespace Sys2Proof.Machine

/-! ### Normalisation (R90) -/

theorem trimText_eq_self {t : List Char} (h : ∀ c ∈ t, isBlank c = false) : trimText t = t := by
  have drop {u : List Char} (hu : ∀ c ∈ u, isBlank c = false) : u.dropWhile isBlank = u := by
    cases u with
    | nil => rfl
    | cons c u => simp [hu c]
  rw [trimText, drop h, drop (by simpa using h), List.reverse_reverse]

/-- Every blank is a space or a control character. -/
theorem isBlank_eq_false {c : Char} (h : 0x20 < c.toNat) : isBlank c = false := by
  simp only [isBlank, List.contains_eq_mem, List.mem_cons, List.not_mem_nil, or_false, decide_eq_false_iff_not]
  omega

/-- A decimal digit by its code. -/
theorem isDecDigit_iff {c : Char} : isDecDigit c = true ↔ 0x30 ≤ c.toNat ∧ c.toNat ≤ 0x39 := by
  simp [isDecDigit]

theorem upperChar_eq_self {c : Char} (h : c.toNat < 0x61) : upperChar c = c := if_neg (by omega)

/-- A text that begins with `I` and holds neither a blank nor a lowercase letter is its own normal form. -/
theorem normaliseAddress_eq_self {t : List Char} (h : ∀ c ∈ t, 0x20 < c.toNat ∧ c.toNat < 0x61) :
    normaliseAddress ('I' :: t) = 'I' :: t := by
  have all : ∀ c ∈ 'I' :: t, 0x20 < c.toNat ∧ c.toNat < 0x61 := List.forall_mem_cons.2 ⟨by decide, h⟩
  have trimmed : trimText ('I' :: t) = 'I' :: t := trimText_eq_self fun c hc => isBlank_eq_false (all c hc).1
  have upper : ('I' :: t).map upperChar = 'I' :: t :=
    (List.map_congr_left fun c hc => upperChar_eq_self (all c hc).2).trans (List.map_id' _)
  simp only [normaliseAddress, trimmed, upper]

/-! ### The grammar (R91 to R93) -/

/-- `I` and digits is the flat form (R93). -/
theorem parseAddress_flat {ds : List Char} (hne : ds ≠ []) (hd : ∀ c ∈ ds, isDecDigit c = true) :
    parseAddress ('I' :: ds) = .ok (flatAddress (decimalValue ds)) := by
  have htake : ds.takeWhile isDecDigit = ds := List.takeWhile_eq_self_iff.2 hd
  have hdrop : ds.dropWhile isDecDigit = [] := List.dropWhile_eq_nil_iff.2 hd
  simp only [parseAddress, htake, hdrop, List.isEmpty_iff, hne, if_false]

/-- `I`, digits, a point and a bit digit is the byte.bit form (R92). -/
theorem parseAddress_byteBit {ds : List Char} {j : Char} (hne : ds ≠ []) (hd : ∀ c ∈ ds, isDecDigit c = true)
    (hj : isBitDigit j = true) :
    parseAddress ('I' :: (ds ++ ['.', j])) = .ok { byteIndex := decimalValue ds, bitIndex := digitValue j } := by
  have point : isDecDigit '.' = false := by decide
  have htake : (ds ++ ['.', j]).takeWhile isDecDigit = ds := by
    rw [List.takeWhile_append_of_pos hd, List.takeWhile_cons_of_neg (by simp [point]), List.append_nil]
  have hdrop : (ds ++ ['.', j]).dropWhile isDecDigit = ['.', j] := by
    rw [List.dropWhile_append_of_pos hd, List.dropWhile_cons_of_neg (by simp [point])]
  simp only [parseAddress, htake, hdrop, List.isEmpty_iff, hne, hj, if_false, if_true]

/-- The digit `j` of 0..7, as the grammar reads it (R91). -/
theorem bitDigit_ofNat : ∀ j : Fin 8, isBitDigit (Char.ofNat (0x30 + j.val)) = true ∧
    digitValue (Char.ofNat (0x30 + j.val)) = j.val ∧
    0x20 < (Char.ofNat (0x30 + j.val)).toNat ∧ (Char.ofNat (0x30 + j.val)).toNat < 0x61 := by decide

/-- Settles O45: neither form has anything to normalise, and the grammar reads each as its rule says. -/
theorem addressFormsResolve : Obligations.AddressFormsResolve := by
  intro ds hne hds
  have digit : ∀ c ∈ ds, isDecDigit c = true := fun c hc => isDecDigit_iff.2 (hds c hc)
  have range : ∀ c ∈ ds, 0x20 < c.toNat ∧ c.toNat < 0x61 := fun c hc => by
    have := isDecDigit_iff.1 (digit c hc)
    omega
  refine ⟨?_, fun j => ?_⟩
  · rw [resolveAddress, normaliseAddress_eq_self range, parseAddress_flat hne digit, flatAddress]
  · obtain ⟨hbit, hvalue, hrange⟩ := bitDigit_ofNat j
    have rest : ∀ c ∈ ds ++ ['.', Char.ofNat (0x30 + j.val)], 0x20 < c.toNat ∧ c.toNat < 0x61 := by
      intro c hc
      rcases List.mem_append.1 hc with hc | hc
      · exact range c hc
      · simp only [List.mem_cons, List.not_mem_nil, or_false] at hc
        rcases hc with rfl | rfl
        · decide
        · exact hrange
    rw [resolveAddress, normaliseAddress_eq_self rest, parseAddress_byteBit hne digit hbit, hvalue]

end Sys2Proof.Machine
end

section
/-! The checksum (R100): its value on no bytes and on one byte more, and the shift steps one byte takes. -/

namespace Sys2Proof.Machine

@[simp] theorem crc16_nil : crc16 [] = crcInit := rfl

/-- The checksum of one byte more takes one byte step from the running value, with no final XOR (R100). -/
@[simp] theorem crc16_concat (bs : List Byte) (b : Byte) : crc16 (bs ++ [b]) = crcByte (crc16 bs) b :=
  List.foldl_concat crcByte crcInit b bs

/-- The shift step, spelled with the rule's constant (R100). -/
theorem crcShift_eq : crcShift = fun c : Crc => if c.getLsbD 0 = true then (c >>> 1) ^^^ 0xA001 else c >>> 1 := rfl

theorem crcShift8_eq_iterate (c : Crc) : crcShift8 c = crcShift^[8] c := rfl

/-- Settles O36: the fold's last step is one byte step, and that is eight shift steps. -/
theorem checksumTakesEightShiftStepsPerByte : Obligations.ChecksumTakesEightShiftStepsPerByte := by
  refine ⟨crc16_nil, fun bs b => ?_⟩
  rw [crc16_concat, crcByte, crcShift8_eq_iterate, crcShift_eq]

end Sys2Proof.Machine
end

section
/-! Rejected frames (R206, R207): what PROCESS does where the validation of the frame finds an error. -/

namespace Sys2Proof.Machine

/-- A response alone leaves all but the response port as it was. -/
theorem sameInputs_setResp (r : Option Response) (s : State) : sameInputs s (s.setResp r) :=
  ⟨rfl, rfl, rfl, rfl, rfl⟩

/-- The length check comes first, whatever the first byte is (R140, R207). -/
theorem checkFrame_of_short {p : List Byte} (h : p.length < inMin) : checkFrame p = .error .frameTooShort :=
  dif_neg (by omega)

/-- On a payload long enough, the marker check decides (R140, R207). -/
theorem checkFrame_of_unmarked {p : List Byte} (hl : inMin ≤ p.length) (hm : p[0]? ≠ some inMark) :
    checkFrame p = .error .invalidMarker := by
  rw [checkFrame, dif_pos hl, dif_neg hm]

/-- PROCESS raises the error that the validation finds, and does nothing else (R140, R206). -/
theorem execProcess_of_error {s : State} {p : List Byte} {e : Status} (hd : s.dataIn = .bytes p)
    (hl : p.length ≤ s.cfg.maxPayload) (he : checkFrame p = .error e) : execProcess s = raise e s := by
  rw [execProcess, withBytes_bytes hd hl, he]

/-- Settles O23: either check's error is raised, and raising writes the response port alone. -/
theorem processRejectsAnInvalidFrame : Obligations.ProcessRejectsAnInvalidFrame := by
  intro s p hd hl
  refine ⟨fun hshort => ?_, fun hlong hmark => ?_⟩
  · exact ⟨_, execProcess_of_error hd hl (checkFrame_of_short hshort), rfl, rfl, rfl, sameInputs_setResp ..⟩
  · exact ⟨_, execProcess_of_error hd hl (checkFrame_of_unmarked hlong hmark), rfl, rfl, rfl, sameInputs_setResp ..⟩

end Sys2Proof.Machine
end

section
/-! Errors write nothing (R201, R204): every command either completes with `OK` or raises an error on the state it was
given, before any write of its own. -/

namespace Sys2Proof.Machine

/-- Where the outcome `r` of a command run on `s` is a next state, either its response is `OK` or it is `s` itself with
an error and no data on the response port. -/
def OkOrRaised (s : State) (r : Result) : Prop :=
  ∀ t, r = .next t → (∃ d, t.resp = okWith d) ∨ ∃ e, t = s.setResp (some { st := e, data := .none })

/-! ### The shared operations -/

theorem OkOrRaised.respond {s u : State} {d : ResultData} : OkOrRaised s (respond d u) := by
  intro t h
  obtain rfl := (respond_eq_next ..).1 h
  exact .inl ⟨d, rfl⟩

theorem OkOrRaised.raise {s : State} {e : Status} : OkOrRaised s (raise e s) :=
  fun _ h => .inr ⟨e, (raise_eq_next ..).1 h⟩

theorem OkOrRaised.withIndex {k : Nat} {s : State} {run : InIdx → Result} (h : ∀ i, OkOrRaised s (run i)) :
    OkOrRaised s (withIndex k s run) := by
  intro t ht
  rcases withIndex_next ht with ⟨i, _, hi⟩ | ⟨_, hraise⟩
  · exact h i t hi
  · exact .inr ⟨_, hraise⟩

theorem OkOrRaised.withBytes {s : State} {run : List Byte → Result} (h : ∀ p, OkOrRaised s (run p)) :
    OkOrRaised s (withBytes s run) := by
  intro t ht
  obtain ⟨p, _, _, hp⟩ := withBytes_next ht
  exact h p t hp

theorem OkOrRaised.withTable {s : State} {run : TableWords → Result} (h : ∀ w, OkOrRaised s (run w)) :
    OkOrRaised s (withTable s run) := by
  intro t ht
  obtain ⟨w, _, hw⟩ := withTable_next ht
  exact h w t hw

/-! ### One command and one step -/

/-- Every command completes with `OK` or raises on the state as it was before its writes (R201, R204). -/
theorem exec_okOrRaised (i : Instr) (s : State) : OkOrRaised s (exec i s) := by
  cases i with
  | setOutput k o =>
    rw [exec_setOutput]
    exact .withIndex fun _ => .withIndex fun _ => .respond
  | setEnabled _ _ | setLatch _ _ | readEntry _ | readLatch _ =>
    simp only [exec_setEnabled, exec_setLatch, exec_readEntry, exec_readLatch]
    exact .withIndex fun _ => .respond
  | readSignal _ _ | crc16 => exact .withBytes fun _ => .respond
  | loadTable =>
    refine .withTable fun w => ?_
    cases checkTable w with
    | ok rt => exact .respond
    | error e => exact .raise
  | process =>
    refine .withBytes fun p => ?_
    cases checkFrame p with
    | ok f => exact .respond
    | error e => exact .raise
  | crcCheck =>
    refine .withBytes fun p => ?_
    cases crcCheck s.cfg.crcOrder p with
    | ok q => exact .respond
    | error e => exact .raise

/-- A word that is no command raises as well (R66). -/
theorem runWord_okOrRaised (w : CmdWord) (s : State) : OkOrRaised s (runWord exec w s) := by
  rcases runWord_cases exec w s with ⟨i, _, e⟩ | ⟨_, e⟩ <;> rw [e]
  · exact exec_okOrRaised i s
  · exact .raise

/-- Settles O48: an idle step leaves no response, and a command's response that is not `OK` was raised on the accepted
state, which holds the registers of the state before the step. -/
theorem errorResponseWritesNothing : Obligations.ErrorResponseWritesNothing := by
  intro s t r hr h ht hst
  rcases step_command_cases hr with ⟨_, e⟩ | ⟨w, _, e⟩ <;> rw [e] at h
  · cases h
    cases ht
  · rcases runWord_okOrRaised w s.accept t h with ⟨d, hok⟩ | ⟨e, rfl⟩
    · obtain rfl : _ = r := Option.some.inj (hok.symm.trans ht)
      exact absurd rfl hst
    · obtain rfl : _ = r := Option.some.inj ht
      exact ⟨rfl, rfl, rfl⟩

end Sys2Proof.Machine
end

section
/-! The round trip of the encoding (R61 to R66): a word selects one row at most, and a command's word selects its row. -/

namespace Sys2Proof

/-- The OP values of the ten rows are ten different ones (R62). -/
theorem rows_op_ne : rows.Pairwise fun r q => r.pattern.extractLsb' 28 4 ≠ q.pattern.extractLsb' 28 4 := by decide

/-- A word holds the OP of every row it selects. -/
theorem op_of_selects {r : Row} {w : CmdWord} (hr : r ∈ rows) (h : r.selects w = true) :
    w.extractLsb' 28 4 = r.pattern.extractLsb' 28 4 :=
  Row.selects_field h (rows_fix_op r hr).1 rfl

/-- Settles O3: a word that selected two rows would hold two different OP values. -/
theorem noWordMatchesTwoRows : Obligations.NoWordMatchesTwoRows := by
  refine rows_op_ne.imp_of_mem fun hr hq hne w ⟨hrw, hqw⟩ => hne ?_
  exact (op_of_selects hr hrw).symm.trans (op_of_selects hq hqw)

/-- The decoder answers what a row the word selects builds from it (R64). -/
theorem decode_eq_some {w : CmdWord} {i : Instr} (h : decode w = some i) :
    ∃ r ∈ rows, r.selects w = true ∧ r.build w = i := by
  obtain ⟨r, hfind, hi⟩ := Option.map_eq_some_iff.1 h
  exact ⟨r, List.mem_of_find?_eq_some hfind, by simpa using List.find?_some hfind, hi⟩

/-- Settles O2: the row behind the answer makes the word the encoding of the command it builds. -/
theorem encodeAfterDecodeIsIdentity : Obligations.EncodeAfterDecodeIsIdentity := by
  intro w i h
  obtain ⟨r, hr, hw, rfl⟩ := decode_eq_some h
  exact ⟨build_wellFormed hr w, encode_build hr hw⟩

/-- Whatever row a word selects is the one the decoder answers with, since no row before it is selected (R63, R64). -/
theorem decode_of_selects {r : Row} {w : CmdWord} (hr : r ∈ rows) (h : r.selects w = true) :
    decode w = some (r.build w) := by
  obtain ⟨before, after, hrows⟩ := List.append_of_mem hr
  have first : ∀ q ∈ before, !q.selects w := by
    intro q hq
    have two := noWordMatchesTwoRows
    rw [Obligations.NoWordMatchesTwoRows, hrows, List.pairwise_append] at two
    obtain ⟨_, _, apart⟩ := two
    simpa [h] using apart q hq r List.mem_cons_self w
  exact Option.map_eq_some_iff.2 ⟨r, List.find?_eq_some_iff_append.2 ⟨h, before, after, hrows, first⟩, rfl⟩

/-- A mask that covers OP and RES lets the masked fields of a command word through. -/
theorem commandWord_and_mask (op : BitVec 4) (a b m n : BitVec 8) (v p : BitVec 1) :
    commandWord op a b v &&& (commandWord 0xF m n p ||| 0xFFE) = commandWord op (a &&& m) (b &&& n) (v &&& p) := by
  apply BitVec.eq_of_getLsbD_eq
  intro i hi
  interval_cases i <;> simp [commandWord]

/-- A command word selects a row of its OP where its other fields are 0 under the row's mask. -/
theorem selects_commandWord {r : Row} {op : BitVec 4} {a b m n : BitVec 8} {v p : BitVec 1}
    (hmask : r.mask = commandWord 0xF m n p ||| 0xFFE) (hpattern : r.pattern = commandWord op 0 0 0)
    (ha : a &&& m = 0) (hb : b &&& n = 0) (hv : v &&& p = 0) : r.selects (commandWord op a b v) = true := by
  rw [Row.selects, hmask, hpattern, commandWord_and_mask, ha, hb, hv, beq_self_eq_true]

/-- The word of a command selects the command's row, and the row builds the command from it (R61 to R63). -/
theorem encode_selects {i : Instr} (h : i.wellFormed = true) :
    ∃ r ∈ rows, r.selects (encode i) = true ∧ r.build (encode i) = i := by
  have byte {a : Nat} (ha : a < 256) : (BitVec.ofNat 8 a).toNat = a :=
    (BitVec.toNat_ofNat a 8).trans (Nat.mod_eq_of_lt ha)
  cases i with
  | setOutput k o =>
    simp only [Instr.wellFormed, Bool.and_eq_true, decide_eq_true_eq] at h
    obtain ⟨hk, ho⟩ := h
    exact ⟨rows[0], List.getElem_mem _,
      selects_commandWord (m := 0) (n := 0) (p := 1) rfl rfl BitVec.and_zero BitVec.and_zero rfl,
      by simp [rows, encode, byte hk, byte ho]⟩
  | setEnabled k e =>
    have hk : k < 256 := of_decide_eq_true h
    exact ⟨rows[1], List.getElem_mem _,
      selects_commandWord (m := 0) (n := 0xFF) (p := 0) rfl rfl BitVec.and_zero rfl BitVec.and_zero,
      by simp [rows, encode, byte hk]⟩
  | setLatch k l =>
    have hk : k < 256 := of_decide_eq_true h
    exact ⟨rows[2], List.getElem_mem _,
      selects_commandWord (m := 0) (n := 0xFF) (p := 0) rfl rfl BitVec.and_zero rfl BitVec.and_zero,
      by simp [rows, encode, byte hk]⟩
  | readEntry k =>
    have hk : k < 256 := of_decide_eq_true h
    exact ⟨rows[4], List.getElem_mem _,
      selects_commandWord (m := 0) (n := 0xFF) (p := 1) rfl rfl BitVec.and_zero rfl rfl,
      by simp [rows, encode, byte hk]⟩
  | readLatch k =>
    have hk : k < 256 := of_decide_eq_true h
    exact ⟨rows[5], List.getElem_mem _,
      selects_commandWord (m := 0) (n := 0xFF) (p := 1) rfl rfl BitVec.and_zero rfl rfl,
      by simp [rows, encode, byte hk]⟩
  | readSignal bi j =>
    simp only [Instr.wellFormed, Bool.and_eq_true, decide_eq_true_eq] at h
    obtain ⟨hbi, hj⟩ := h
    have narrow (x : BitVec 3) : x.setWidth 8 &&& 0xF8 = 0 := by revert x; decide
    exact ⟨rows[7], List.getElem_mem _,
      selects_commandWord (m := 0) (n := 0xF8) (p := 1) rfl rfl BitVec.and_zero (narrow _) rfl,
      by simpa [rows, encode, byte hbi] using hj⟩
  | loadTable => exact ⟨rows[3], List.getElem_mem _, rfl, rfl⟩
  | process => exact ⟨rows[6], List.getElem_mem _, rfl, rfl⟩
  | crc16 => exact ⟨rows[8], List.getElem_mem _, rfl, rfl⟩
  | crcCheck => exact ⟨rows[9], List.getElem_mem _, rfl, rfl⟩

/-- Settles O1: a command's word selects the row that builds the command, and the decoder answers with that row. -/
theorem decodeAfterEncodeIsIdentity : Obligations.DecodeAfterEncodeIsIdentity := by
  intro i h
  obtain ⟨r, hr, hw, hi⟩ := encode_selects h
  rw [decode_of_selects hr hw, hi]

/-- Settles O4: closed words, evaluated. -/
theorem exampleWordsDecode : Obligations.ExampleWordsDecode := by
  unfold Obligations.ExampleWordsDecode
  decide

end Sys2Proof
end

section
/-! What any command and any step can do: a command changes the core's state and the response port alone, its response is
one the core may give, and a whole command always responds (R50, R60, R69, R201). -/

namespace Sys2Proof.Machine

/-! ### The frame PROCESS signs (R82, R146) -/

/-- The validator matches a sequence with its own checksum appended, in either byte order (R105). -/
theorem crcCheck_appended (order : CrcOrder) (d : List Byte) :
    crcCheck order (d ++ crcBytes order (crc16 d)) = .ok (true, crc16 d) := by
  obtain ⟨b0, b1, hbytes, hcrc⟩ := crcOfBytes_crcBytes order (crc16 d)
  rw [hbytes, crcCheck_append, hcrc, beq_self_eq_true]

theorem frameSigned_outFrame (order : CrcOrder) (d : DataBuf) : frameSigned order (outFrame order d) := by
  refine ⟨outFrame_length .., outFrame_marker .., outFrame_status .., ?_⟩
  rw [outFrame_take]
  exact crcCheck_appended order (frameBody d)

/-! ### To show a property of an outcome, show it of each branch -/

theorem withIndex_ind {P : Result → Prop} {k : Nat} {s : State} {run : InIdx → Result} (hrun : ∀ i, P (run i))
    (hraise : P (raise .routingIndexOutOfRange s)) : P (withIndex k s run) := by
  rcases withIndex_cases k s run with ⟨_, e⟩ | ⟨_, e⟩ <;> rw [e]
  · exact hrun _
  · exact hraise

theorem withBytes_ind {P : Result → Prop} {s : State} {run : List Byte → Result} (hrun : ∀ p, P (run p))
    (hrefuse : ∀ e, P (.refused e)) : P (withBytes s run) := by
  unfold withBytes
  split
  · split
    · exact hrun _
    · exact hrefuse _
  · exact hrefuse _

theorem withTable_ind {P : Result → Prop} {s : State} {run : TableWords → Result} (hrun : ∀ w, P (run w))
    (hrefuse : ∀ e, P (.refused e)) : P (withTable s run) := by
  unfold withTable
  split
  · exact hrun _
  · exact hrefuse _

/-! ### What a command changes and answers -/

/-- Where the outcome of a command run on `s` is a next state, it is `s` with another core state (R31) and, on the
response port, a response the core may give. -/
def AnswersWell (s : State) (r : Result) : Prop :=
  ∀ t, r = .next t → ∃ c q, responseGood s.cfg q ∧ t = { s with toCoreState := c, resp := some q }

theorem AnswersWell.refused {s : State} (e : Refusal) : AnswersWell s (.refused e) := nofun

theorem AnswersWell.respond {s : State} {d : ResultData} (c : CoreState)
    (hd : ∀ f, d = .frame f → frameSigned s.cfg.crcOrder f) :
    AnswersWell s (respond d { s with toCoreState := c }) := by
  intro t h
  exact ⟨c, _, ⟨by nofun, fun hne => absurd rfl hne, hd⟩, (respond_eq_next ..).1 h⟩

theorem AnswersWell.raise {s : State} {e : Status} (he : e ≠ .addressMalformed) : AnswersWell s (raise e s) := by
  intro t h
  exact ⟨s.toCoreState, _, ⟨he, fun _ => rfl, by nofun⟩, (raise_eq_next ..).1 h⟩

theorem checkTable_error {w : TableWords} {e : Status} (h : checkTable w = .error e) : e ≠ .addressMalformed := by
  rcases checkTable_cases w with ⟨_, hc⟩ | ⟨_, _, hc⟩ | ⟨_, _, hc⟩ <;> rw [hc] at h <;> cases h <;> nofun

theorem checkFrame_error {p : List Byte} {e : Status} (h : checkFrame p = .error e) : e ≠ .addressMalformed := by
  rcases checkFrame_cases p with ⟨_, _, hc⟩ | ⟨_, hc⟩ | ⟨_, _, hc⟩ <;> rw [hc] at h <;> cases h <;> nofun

/-- Every command answers well: only PROCESS answers a frame, which it signs, and no check finds `AddressMalformed`. -/
theorem exec_answersWell (i : Instr) (s : State) : AnswersWell s (exec i s) := by
  have indexRange : AnswersWell s (Machine.raise .routingIndexOutOfRange s) := .raise nofun
  cases i with
  | setOutput k o =>
    rw [exec_setOutput, execSetOutput]
    refine withIndex_ind (P := AnswersWell s) (fun _ => ?_) indexRange
    exact withIndex_ind (P := AnswersWell s) (fun _ => .respond _ (by nofun)) indexRange
  | setEnabled _ _ | setLatch _ _ | readEntry _ | readLatch _ =>
    simp only [exec_setEnabled, exec_setLatch, exec_readEntry, exec_readLatch, execSetEnabled, execSetLatch,
      execReadEntry, execReadLatch]
    exact withIndex_ind (P := AnswersWell s) (fun _ => .respond _ (by nofun)) indexRange
  | readSignal _ _ | crc16 => exact withBytes_ind (P := AnswersWell s) (fun _ => .respond _ (by nofun)) .refused
  | loadTable =>
    refine withTable_ind (fun w => ?_) .refused
    cases hc : checkTable w with
    | ok rt => exact .respond _ (by nofun)
    | error e => exact .raise (checkTable_error hc)
  | process =>
    refine withBytes_ind (P := AnswersWell s) (fun p => ?_) .refused
    cases hc : checkFrame p with
    | ok f =>
      refine .respond _ fun F hF => ?_
      cases hF
      exact frameSigned_outFrame ..
    | error e => exact .raise (checkFrame_error hc)
  | crcCheck =>
    refine withBytes_ind (P := AnswersWell s) (fun p => ?_) .refused
    cases hc : crcCheck s.cfg.crcOrder p with
    | ok q => exact .respond _ (by nofun)
    | error e =>
      obtain ⟨_, rfl⟩ := crcCheck_error hc
      exact .raise nofun

/-- A word that is no command answers well too, with `IllegalCommand` (R66). -/
theorem runWord_answersWell (w : CmdWord) (s : State) : AnswersWell s (runWord exec w s) := by
  rcases runWord_cases exec w s with ⟨i, _, e⟩ | ⟨_, e⟩ <;> rw [e]
  · exact exec_answersWell i s
  · exact .raise nofun

/-! ### A whole command completes (R60, R67) -/

/-- The outcome is a next state. -/
def Completes (r : Result) : Prop := ∃ t, r = .next t

theorem completes_respond (d : ResultData) (s : State) : Completes (respond d s) := ⟨_, rfl⟩
theorem completes_raise (e : Status) (s : State) : Completes (raise e s) := ⟨_, rfl⟩

/-- A byte payload that fits is there and within `MAX_PAYLOAD`. -/
theorem payloadFits_bytes {cfg : Config} {p : Payload} (h : payloadFits cfg .bytes p = true) :
    ∃ b, p = .bytes b ∧ b.length ≤ cfg.maxPayload := by
  cases p with
  | bytes b => exact ⟨b, rfl, of_decide_eq_true h⟩
  | none | table _ => cases h

/-- A table payload that fits is there. -/
theorem payloadFits_table {cfg : Config} {p : Payload} (h : payloadFits cfg .table p = true) : ∃ w, p = .table w := by
  cases p with
  | table w => exact ⟨w, rfl⟩
  | none | bytes _ => cases h

theorem completes_withBytes {s : State} {run : List Byte → Result}
    (h : payloadFits s.cfg .bytes s.dataIn = true) (hrun : ∀ p, Completes (run p)) : Completes (withBytes s run) := by
  obtain ⟨p, hd, hl⟩ := payloadFits_bytes h
  rw [withBytes_bytes hd hl]
  exact hrun p

/-- A command whose payload fits completes, whatever its operands and whatever the payload holds (R201). -/
theorem exec_completes {i : Instr} {s : State} (h : payloadFits s.cfg (payloadKind i) s.dataIn = true) :
    Completes (exec i s) := by
  cases i with
  | setOutput k o =>
    rw [exec_setOutput, execSetOutput]
    refine withIndex_ind (P := Completes) (fun _ => ?_) (completes_raise ..)
    exact withIndex_ind (P := Completes) (fun _ => completes_respond ..) (completes_raise ..)
  | setEnabled _ _ | setLatch _ _ | readEntry _ | readLatch _ =>
    simp only [exec_setEnabled, exec_setLatch, exec_readEntry, exec_readLatch, execSetEnabled, execSetLatch,
      execReadEntry, execReadLatch]
    exact withIndex_ind (P := Completes) (fun _ => completes_respond ..) (completes_raise ..)
  | readSignal _ _ | crc16 => exact completes_withBytes h fun _ => completes_respond ..
  | loadTable =>
    obtain ⟨w, hw⟩ := payloadFits_table h
    rw [exec_loadTable, execLoadTable, withTable_table hw]
    cases checkTable w with
    | ok rt => exact completes_respond ..
    | error e => exact completes_raise ..
  | process =>
    refine completes_withBytes h fun p => ?_
    cases checkFrame p with
    | ok f => exact completes_respond ..
    | error e => exact completes_raise ..
  | crcCheck =>
    refine completes_withBytes h fun p => ?_
    cases crcCheck s.cfg.crcOrder p with
    | ok q => exact completes_respond ..
    | error e => exact completes_raise ..

/-- A whole command, illegal words included, completes (R66, R201). -/
theorem runWord_completes {s : State} {w : CmdWord} (hc : s.cmd = some w) (hwhole : s.commandWhole) :
    Completes (runWord exec w s.accept) := by
  rcases runWord_cases exec w s.accept with ⟨i, hd, e⟩ | ⟨_, e⟩ <;> rw [e]
  · exact exec_completes (hwhole w i hc hd)
  · exact completes_raise ..

/-! ### One step -/

/-- A step with no reset runs the word presented on the accepted state (R50). -/
theorem step_word {s : State} {w : CmdWord} (hr : s.rst = false) (hc : s.cmd = some w) :
    step s = runWord exec w s.accept := by
  simp [step, stepWith, hr, commandStep, hc]

/-- A step with no reset runs the command its word decodes to (R50, R64). -/
theorem step_decoded {s : State} {w : CmdWord} {i : Instr} (hr : s.rst = false) (hc : s.cmd = some w)
    (hd : decode w = some i) : step s = exec i s.accept := by
  simp [step_word hr hc, runWord, hd]

/-- What every step keeps, and what may stand on the response port after it. -/
theorem step_next {s t : State} (h : step s = .next t) :
    t.cfg = s.cfg ∧ t.dataIn = s.dataIn ∧ ∀ q, t.resp = some q → responseGood s.cfg q := by
  have answered {w : CmdWord} {a u : State} (hu : runWord exec w a = .next u) :
      u.cfg = a.cfg ∧ u.dataIn = a.dataIn ∧ ∀ q, u.resp = some q → responseGood a.cfg q := by
    obtain ⟨c, q, hq, rfl⟩ := runWord_answersWell w a u hu
    refine ⟨rfl, rfl, fun q' hq' => ?_⟩
    obtain rfl := Option.some.inj hq'
    exact hq
  cases hr : s.rst with
  | false =>
    rcases step_command_cases hr with ⟨_, e⟩ | ⟨w, _, e⟩ <;> rw [e] at h
    · cases h
      exact ⟨rfl, rfl, nofun⟩
    · exact answered (a := s.accept) h
  | true =>
    rcases step_reset_cases hr with ⟨_, e⟩ | ⟨w, _, e | e⟩ <;> rw [e] at h
    · obtain rfl := Host.Outcome.next.inj h
      simp
    · obtain rfl := Host.Outcome.next.inj h
      simp
    · obtain ⟨u, hu, rfl⟩ := resetAfter_next h
      obtain ⟨hcfg, hdata, hresp⟩ := answered hu
      exact ⟨(applyReset_cfg u).trans hcfg, (applyReset_dataIn u).trans hdata, by simpa using hresp⟩

/-- Settles O52: the step keeps the configuration, and every response it leaves is one the core may give. -/
theorem stepKeepsResponsesWellFormed : Obligations.StepKeepsResponsesWellFormed := by
  intro s t ⟨hwf, _⟩ h
  obtain ⟨hcfg, _, hresp⟩ := step_next h
  rw [State.Inv, hcfg]
  exact ⟨hwf, hresp⟩

/-- Settles O53: the reference configuration is legal and the response port is empty. -/
theorem resetStateMeetsTheInvariant : Obligations.ResetStateMeetsTheInvariant :=
  ⟨show Config.reference.wf by decide, nofun⟩

/-- Settles O55: both are among what every step keeps. -/
theorem stepKeepsConfigurationAndPayload : Obligations.StepKeepsConfigurationAndPayload := by
  intro s t h
  obtain ⟨hcfg, hdata, _⟩ := step_next h
  exact ⟨hcfg, hdata⟩

/-- Settles O54: the accepted command completes with a response, on the state whose command port is free. -/
theorem everyWholeCommandResponds : Obligations.EveryWholeCommandResponds := by
  intro s w hr hc hwhole
  obtain ⟨t, ht⟩ := runWord_completes hc hwhole
  obtain ⟨c, q, _, rfl⟩ := runWord_answersWell w s.accept t ht
  exact ⟨_, q, (step_word hr hc).trans ht, rfl, rfl⟩

/-- Settles O6: the step runs the decoded command, and accepting touches the command and response ports alone. -/
theorem stepRunsTheDecodedCommand : Obligations.StepRunsTheDecodedCommand := by
  intro s w i hr hc hd
  exact ⟨step_decoded hr hc hd, rfl, rfl, rfl, rfl, rfl, rfl, rfl, rfl⟩

/-- Settles O7: the idle step only takes the earlier response away. -/
theorem stepWithoutCommandIsIdle : Obligations.StepWithoutCommandIsIdle := by
  intro s hr hc
  rcases step_command_cases hr with ⟨_, e⟩ | ⟨w, hw, _⟩
  · exact ⟨s.accept, e, rfl, rfl, rfl, hc.symm, rfl, rfl, rfl, rfl⟩
  · rw [hc] at hw
    cases hw

/-! ### A placed command (R60, R67) -/

theorem withFetchWord_toNat (s : State) (w : CmdWord) : s.withFetchWord 32 w.toNat = s.presentWord w := by
  rw [State.withFetchWord, Nat.mod_eq_of_lt w.isLt, BitVec.ofNat_toNat, BitVec.setWidth_eq]

/-- The payload placed with a command fits it: the one that stands on the port, else a default of its kind. -/
theorem payloadFor_fits {w : CmdWord} {i : Instr} (hd : decode w = some i) (s : State) :
    payloadFits s.cfg (payloadKind i) (payloadFor w s) = true := by
  simp only [payloadFor, hd]
  split
  · assumption
  · cases payloadKind i <;> simp [payloadFits]

/-- Settles O8: the placed word decodes to its command, whose payload fits, so the step runs it and it completes. -/
theorem placedCommandIsRunNext : Obligations.PlacedCommandIsRunNext := by
  intro s i hi
  have hd := decodeAfterEncodeIsIdentity i hi
  have hfits := payloadFor_fits hd s
  rw [withFetchWord_toNat]
  obtain ⟨t, ht⟩ := exec_completes (s := (s.presentWord (encode i)).accept) hfits
  refine ⟨t, (step_decoded rfl rfl hd).trans ht, ht, ?_, rfl, rfl⟩
  intro w j hw hj
  obtain rfl := Option.some.inj hw
  obtain rfl := Option.some.inj (hd.symm.trans hj)
  exact hfits

end Sys2Proof.Machine
end

section
/-! Reset (R230, R231), and what a command depends on (R31): the rest of the state a step carries along. -/

namespace Sys2Proof.Machine

/-! ### A command does not look at `rst` or at the counter of draws -/

/-- The state with another `rst` and another counter of draws. -/
def State.withDraw (b : Bit) (n : Nat) (s : State) : State := { s with rst := b, draws := n }

/-- The outcome with its next state, where it has one, mapped. -/
def onNext (g : State → State) : Result → Result
  | .next t => .next (g t)
  | .fault e => .fault e
  | .refused e => .refused e

theorem withIndex_withDraw {b : Bit} {n k : Nat} {s : State} {run run' : InIdx → Result}
    (h : ∀ i, run' i = onNext (State.withDraw b n) (run i)) :
    withIndex k (s.withDraw b n) run' = onNext (State.withDraw b n) (withIndex k s run) := by
  by_cases hk : k < 192
  · rw [withIndex_of_lt hk, withIndex_of_lt hk, h]
  · rw [withIndex_of_le (not_lt.1 hk), withIndex_of_le (not_lt.1 hk)]
    rfl

theorem withBytes_withDraw {b : Bit} {n : Nat} {s : State} {run run' : List Byte → Result}
    (h : ∀ p, run' p = onNext (State.withDraw b n) (run p)) :
    withBytes (s.withDraw b n) run' = onNext (State.withDraw b n) (withBytes s run) := by
  simp only [withBytes, show (s.withDraw b n).dataIn = s.dataIn from rfl, show (s.withDraw b n).cfg = s.cfg from rfl]
  split
  · split
    · exact h _
    · rfl
  · rfl

theorem withTable_withDraw {b : Bit} {n : Nat} {s : State} {run run' : TableWords → Result}
    (h : ∀ w, run' w = onNext (State.withDraw b n) (run w)) :
    withTable (s.withDraw b n) run' = onNext (State.withDraw b n) (withTable s run) := by
  simp only [withTable, show (s.withDraw b n).dataIn = s.dataIn from rfl]
  split
  · exact h _
  · rfl

/-- No command reads `rst` or the counter, and each carries both along (R31; log entry 3). -/
theorem exec_withDraw (i : Instr) (b : Bit) (n : Nat) (s : State) :
    exec i (s.withDraw b n) = onNext (State.withDraw b n) (exec i s) := by
  cases i with
  | setOutput k o =>
    simp only [exec_setOutput, execSetOutput]
    exact withIndex_withDraw fun _ => withIndex_withDraw fun _ => rfl
  | setEnabled _ _ | setLatch _ _ | readEntry _ | readLatch _ =>
    simp only [exec_setEnabled, exec_setLatch, exec_readEntry, exec_readLatch, execSetEnabled, execSetLatch,
      execReadEntry, execReadLatch]
    exact withIndex_withDraw fun _ => rfl
  | readSignal _ _ | crc16 => exact withBytes_withDraw fun _ => rfl
  | loadTable =>
    refine withTable_withDraw fun w => ?_
    cases checkTable w <;> rfl
  | process =>
    refine withBytes_withDraw fun p => ?_
    cases checkFrame p <;> rfl
  | crcCheck =>
    refine withBytes_withDraw fun p => ?_
    rw [show (s.withDraw b n).cfg = s.cfg from rfl]
    cases crcCheck s.cfg.crcOrder p <;> rfl

theorem runWord_withDraw (w : CmdWord) (b : Bit) (n : Nat) (s : State) :
    runWord exec w (s.withDraw b n) = onNext (State.withDraw b n) (runWord exec w s) := by
  unfold runWord
  split
  · exact exec_withDraw ..
  · rfl

/-- Settles O58: the step's outcome is the accepted state with another core state and a response, and `commandOn` runs
the same word on a state that differs from the accepted one in the counter of draws at most. -/
theorem commandActsOnTheCoreStateAlone : Obligations.CommandActsOnTheCoreStateAlone := by
  intro s w hr hc hwhole
  obtain ⟨t, ht⟩ := runWord_completes hc hwhole
  obtain ⟨c, r, _, rfl⟩ := runWord_answersWell w s.accept t ht
  have hcore := (runWord_withDraw w false 0 s.accept).trans (congrArg (onNext _) ht)
  exact ⟨c, r, commandOn_eq_some.2 ⟨_, hcore, rfl, rfl⟩, (step_word hr hc).trans ht⟩

/-! ### Reset (R230, R231) -/

/-- The registers after reset, entry by entry and cell by cell (R20, R24, R230). -/
theorem applyReset_registers (s : State) :
    (∀ k : InIdx, s.applyReset.rt[k] = { out := k, en := false, lt := false }) ∧
      ∀ k : InIdx, s.applyReset.ls[k] = { prev := false, tog := false } := by
  refine ⟨fun k => ?_, fun k => ?_⟩
  · rw [applyReset_rt, routingTable_reset_get, RouteEntry.reset]
  · rw [applyReset_ls, latchStore_reset_get, LatchCell.cleared]

/-- Settles O9: the registers by their reset values, the ports by their initial ones. -/
theorem resetStateHoldsResetValues : Obligations.ResetStateHoldsResetValues :=
  ⟨routingTable_reset_get, latchStore_reset_get, rfl, rfl, rfl⟩

/-- A step with reset applied and no command presented is reset alone (R230). -/
theorem step_reset_alone {s : State} (hr : s.rst = true) (hc : s.cmd = none) : step s = .next s.accept.applyReset := by
  rcases step_reset_cases hr with ⟨_, e⟩ | ⟨w, hw, _⟩
  · exact e
  · rw [hc] at hw
    cases hw

/-- Settles O10: the step is reset alone, on the state without the earlier response. -/
theorem resetGivesEveryRegisterItsResetValue : Obligations.ResetGivesEveryRegisterItsResetValue := by
  intro s hr hc
  obtain ⟨hrt, hls⟩ := applyReset_registers s.accept
  exact ⟨_, step_reset_alone hr hc, hrt, hls, by simp, by simp, by simp, by simp⟩

/-- Settles O11: abandoned, the command leaves no response; completed, it ran on the accepted state with another counter
and `rst`, and so answers what it answers without reset. -/
theorem resetOverACommandCompletesOrAbandonsIt : Obligations.ResetOverACommandCompletesOrAbandonsIt := by
  intro s w hr hc hwhole
  rcases step_reset_cases hr with ⟨hn, _⟩ | ⟨v, hv, e | e⟩
  · rw [hc] at hn
    cases hn
  · obtain ⟨hrt, hls⟩ := applyReset_registers { s.accept with draws := s.draws + 1 }
    exact ⟨_, e, hrt, hls, by simp, by simp, .inl (by simp)⟩
  · obtain rfl := Option.some.inj (hc.symm.trans hv)
    obtain ⟨u, r, hu, hresp, -⟩ := everyWholeCommandResponds { s with rst := false } w rfl hc hwhole
    have run := (step_word (s := { s with rst := false }) rfl hc).symm.trans hu
    have e : step s = resetAfter (runWord exec w
        (({ s with rst := false } : State).accept.withDraw s.rst (s.draws + 1))) := e
    rw [runWord_withDraw, run] at e
    obtain ⟨hrt, hls⟩ := applyReset_registers (u.withDraw s.rst (s.draws + 1))
    refine ⟨_, e, hrt, hls, by simp, by simp, .inr ⟨u, hu, by simp [hresp], by rw [applyReset_resp]; rfl⟩⟩

/-! ### Who writes the routing table (R23) -/

/-- A command other than the four that write the table leaves it as it was. -/
theorem exec_rt_kept {i : Instr} {s t : State} (h : exec i s = .next t) (hne : t.rt ≠ s.rt) :
    (∃ k o, i = .setOutput k o) ∨ (∃ k e, i = .setEnabled k e) ∨ (∃ k l, i = .setLatch k l) ∨ i = .loadTable := by
  cases i with
  | setOutput _ _ | setEnabled _ _ | setLatch _ _ | loadTable => simp
  | process => exact absurd (execProcess_keeps h).1 hne
  | readEntry _ | readLatch _ | readSignal _ _ | crc16 | crcCheck =>
    obtain ⟨r, rfl⟩ := exec_readOnly_next rfl h
    exact absurd rfl hne

/-- Settles O49: with no reset, a step that changes the table runs a decoded command, which is one of the four. -/
theorem onlyTableCommandsChangeTheRoutingTable : Obligations.OnlyTableCommandsChangeTheRoutingTable := by
  intro s t h hne
  cases hr : s.rst with
  | true => exact .inl rfl
  | false =>
    rcases step_command_cases hr with ⟨_, e⟩ | ⟨w, hw, e⟩ <;> rw [e] at h
    · cases h
      exact absurd rfl hne
    · rcases runWord_cases exec w s.accept with ⟨i, hd, e⟩ | ⟨_, e⟩ <;> rw [e] at h
      · exact .inr ⟨w, i, hw, hd, exec_rt_kept h hne⟩
      · obtain rfl := (raise_eq_next ..).1 h
        exact absurd rfl hne

/-! ### The refusals (U12, D11; log entry 5) -/

theorem withBytes_tooLong {s : State} {p : List Byte} (hp : s.dataIn = .bytes p) (hl : s.cfg.maxPayload < p.length)
    (run : List Byte → Result) : withBytes s run = .refused .payloadTooLong := by
  simp [withBytes, hp, hl]

theorem withBytes_missing {s : State} (h : ∀ p, s.dataIn ≠ .bytes p) (run : List Byte → Result) :
    withBytes s run = .refused .bytePayloadMissing := by
  unfold withBytes
  split
  · exact absurd (by assumption) (h _)
  · rfl

theorem withTable_missing {s : State} (h : ∀ w, s.dataIn ≠ .table w) (run : TableWords → Result) :
    withTable s run = .refused .tablePayloadMissing := by
  unfold withTable
  split
  · exact absurd (by assumption) (h _)
  · rfl

/-- A command that calls for a byte payload does nothing before it takes it (R60, R62). -/
theorem exec_takes_bytes {i : Instr} (h : payloadKind i = .bytes) (s : State) : ∃ run, exec i s = withBytes s run := by
  cases i with
  | process | readSignal _ _ | crc16 | crcCheck => exact ⟨_, rfl⟩
  | setOutput _ _ | setEnabled _ _ | setLatch _ _ | loadTable | readEntry _ | readLatch _ => cases h

/-- The one command that calls for a table payload is LOAD_TABLE (R62). -/
theorem payloadKind_eq_table {i : Instr} (h : payloadKind i = .table) : i = .loadTable := by
  cases i with
  | loadTable => rfl
  | process | readSignal _ _ | crc16 | crcCheck | setOutput _ _ | setEnabled _ _ | setLatch _ _ | readEntry _
  | readLatch _ => cases h

/-- Settles O56: each command takes its payload first, and taking it refuses what cannot be taken. -/
theorem commandsWithoutTheirPayloadAreRefused : Obligations.CommandsWithoutTheirPayloadAreRefused := by
  intro s i
  refine ⟨fun p hp hl hk => ?_, fun hp hk => ?_, fun hw hk => ?_⟩
  · obtain ⟨run, e⟩ := exec_takes_bytes hk s
    exact e.trans (withBytes_tooLong hp hl run)
  · obtain ⟨run, e⟩ := exec_takes_bytes hk s
    exact e.trans (withBytes_missing hp run)
  · obtain rfl := payloadKind_eq_table hk
    exact withTable_missing hw _

end Sys2Proof.Machine
end

section
/-! The routing table and latch store commands (41_table.md), and what the host builds from them: boot and the
pseudo-commands (R72, R233). -/

namespace Sys2Proof.Machine

/-! ### One entry (R120 to R122, R124, R125) -/

theorem execSetOutput_fin (k : InIdx) (o : OutIdx) (s : State) :
    execSetOutput k.val o.val s = respond .none (s.setEntry k { s.rt[k] with out := o }) := by
  rw [execSetOutput, withIndex_fin, withIndex_fin]

theorem execSetEnabled_fin (k : InIdx) (e : Bit) (s : State) :
    execSetEnabled k.val e s = respond .none (s.setEntry k { s.rt[k] with en := e }) := by
  rw [execSetEnabled, withIndex_fin]

theorem execSetLatch_fin (k : InIdx) (l : Bit) (s : State) :
    execSetLatch k.val l s =
      respond .none ((s.setCell k (latchFlagWritten s.rt[k].lt l s.ls[k])).setEntry k { s.rt[k] with lt := l }) := by
  rw [execSetLatch, withIndex_fin]

theorem execReadEntry_fin (k : InIdx) (s : State) : execReadEntry k.val s = respond (.entry (entryWord s.rt[k])) s := by
  rw [execReadEntry, withIndex_fin]

theorem execReadLatch_fin (k : InIdx) (s : State) : execReadLatch k.val s = respond (.latch (latchBits s.ls[k])) s := by
  rw [execReadLatch, withIndex_fin]

theorem setEntry_rt_same (k : InIdx) (e : RouteEntry) (s : State) : (s.setEntry k e).rt[k] = e := by
  rw [setEntry_rt_get, if_pos rfl]

theorem setEntry_rt_other {k j : InIdx} (h : j ≠ k) (e : RouteEntry) (s : State) :
    (s.setEntry k e).rt[j] = s.rt[j] := by
  rw [setEntry_rt_get, if_neg h]

/-- Settles O13: the command responds after one write of the entry. -/
theorem setOutputWritesTheTarget : Obligations.SetOutputWritesTheTarget := by
  intro s k o
  exact ⟨_, execSetOutput_fin k o s, setEntry_rt_same .., fun j hj => setEntry_rt_other hj .., rfl, rfl,
    rfl, rfl, rfl, rfl, rfl⟩

/-- Settles O14: the command responds after one write of the entry. -/
theorem setEnabledWritesTheFlag : Obligations.SetEnabledWritesTheFlag := by
  intro s k e
  exact ⟨_, execSetEnabled_fin k e s, setEntry_rt_same .., fun j hj => setEntry_rt_other hj .., rfl, rfl,
    rfl, rfl, rfl, rfl, rfl⟩

/-- Settles O15: one write of the entry and one of its cell, which the written flag clears or keeps (R25). -/
theorem setLatchClearsOnTransitionOnly : Obligations.SetLatchClearsOnTransitionOnly := by
  intro s k l
  have cell (j : InIdx) (c : LatchCell) (e : RouteEntry) :
      ((s.setCell k c).setEntry k e).ls[j] = if j = k then c else s.ls[j] := setCell_ls_get k j c s
  refine ⟨_, execSetLatch_fin k l s, setEntry_rt_same .., fun j hj => ⟨?_, ?_⟩, fun hold hnew => ?_, fun hkept => ?_,
    rfl, rfl, rfl, rfl, rfl, rfl⟩
  · exact setEntry_rt_other hj ..
  · exact (cell ..).trans (if_neg hj)
  · exact (cell ..).trans ((if_pos rfl).trans (by rw [hold, hnew]; rfl))
  · exact (cell ..).trans ((if_pos rfl).trans (latchFlagWritten_kept hkept _))

/-- Settles O16: the answer is the entry word, whose fields read back as the entry's. -/
theorem readEntryAnswersTheEntryWord : Obligations.ReadEntryAnswersTheEntryWord := by
  intro s k
  exact ⟨_, _, execReadEntry_fin k s, rfl, wordOut_entryWord _, wordReserved_entryWord _, wordEn_entryWord _,
    wordLt_entryWord _, rfl, rfl, sameInputs_setResp ..⟩

@[simp] theorem getLsbD_latchBits_prev (c : LatchCell) : (latchBits c).getLsbD 1 = c.prev := by simp [latchBits]
@[simp] theorem getLsbD_latchBits_tog (c : LatchCell) : (latchBits c).getLsbD 0 = c.tog := by simp [latchBits]

/-- Settles O17: the answer is the cell's two bits. -/
theorem readLatchAnswersTheCell : Obligations.ReadLatchAnswersTheCell := by
  intro s k
  exact ⟨_, _, execReadLatch_fin k s, rfl, getLsbD_latchBits_prev _, getLsbD_latchBits_tog _, rfl, rfl,
    sameInputs_setResp ..⟩

/-- Settles O18: every command checks its indices before it writes, and SET_OUTPUT's second index as its first. -/
theorem indexOutOfRangeRaises : Obligations.IndexOutOfRangeRaises := by
  intro s k j e hk
  have first (run : InIdx → Result) : withIndex k s run = raise .routingIndexOutOfRange s := withIndex_of_le hk s run
  have second : execSetOutput j k s = raise .routingIndexOutOfRange s := by
    rw [execSetOutput]
    exact withIndex_ind (P := (· = raise .routingIndexOutOfRange s)) (fun _ => first _) rfl
  refine ⟨s.setResp _, rfl, rfl, rfl, sameInputs_setResp .., ?_, second, ?_, ?_, ?_, ?_⟩
  · rw [exec_setOutput, execSetOutput, first, raise]
  · rw [exec_setEnabled, execSetEnabled, first, raise]
  · rw [exec_setLatch, execSetLatch, first, raise]
  · rw [exec_readEntry, execReadEntry, first, raise]
  · rw [exec_readLatch, execReadLatch, first, raise]

/-! ### The whole table (R123, R126) -/

theorem checkTable_of_reserved {w : TableWords} (h : ∃ k : InIdx, wordReserved w[k] ≠ 0) :
    checkTable w = .error .illegalCommand := by
  obtain ⟨k, hk⟩ := h
  rcases checkTable_cases w with ⟨_, e⟩ | ⟨hr, _⟩ | ⟨hr, _⟩
  · exact e
  · exact absurd (hr k) hk
  · exact absurd (hr k) hk

theorem checkTable_of_range {w : TableWords} (hr : ∀ k : InIdx, wordReserved w[k] = 0)
    (ho : ∃ k : InIdx, 192 ≤ wordOut w[k]) : checkTable w = .error .routingIndexOutOfRange := by
  obtain ⟨k, hk⟩ := ho
  rcases checkTable_cases w with ⟨⟨j, hj⟩, _⟩ | ⟨_, _, e⟩ | ⟨_, ho, _⟩
  · exact absurd (hr j) hj
  · exact e
  · exact absurd (ho k) (by omega)

theorem checkTable_of_valid {w : TableWords} (hr : ∀ k : InIdx, wordReserved w[k] = 0)
    (ho : ∀ k : InIdx, wordOut w[k] < 192) : checkTable w = .ok (Vector.ofFn fun k => wordEntry w[k] (ho k)) := by
  rcases checkTable_cases w with ⟨⟨j, hj⟩, _⟩ | ⟨_, ⟨j, hj⟩, _⟩ | ⟨_, _, e⟩
  · exact absurd (hr j) hj
  · exact absurd (ho j) (by omega)
  · exact e

/-- Two vectors over the index space are equal where they agree at every index. -/
theorem ext_inIdx {α : Type} {v w : Vector α 192} (h : ∀ k : InIdx, v[k] = w[k]) : v = w :=
  Vector.ext fun i hi => h ⟨i, hi⟩

theorem ofFn_get {α : Type} (g : InIdx → α) (k : InIdx) : (Vector.ofFn g)[k] = g k := by simp

/-- The table of the entry words of `rt` passes the checks as `rt` itself (R68, R126). -/
theorem checkTable_entryWords {w : TableWords} {rt : RoutingTable} (h : ∀ k : InIdx, w[k] = entryWord rt[k]) :
    checkTable w = .ok rt := by
  have out (k : InIdx) : wordOut w[k] < 192 := by
    rw [h, wordOut_entryWord]
    exact rt[k].out.isLt
  rw [checkTable_of_valid (fun k => by rw [h, wordReserved_entryWord]) out]
  refine congrArg Except.ok (ext_inIdx fun k => ?_)
  rw [ofFn_get]
  simp only [h, wordEntry_entryWord]

/-- LOAD_TABLE replaces the table whole where the checks pass (R123). -/
theorem execLoadTable_of_ok {s : State} {w : TableWords} {rt : RoutingTable} (hw : s.dataIn = .table w)
    (h : checkTable w = .ok rt) :
    ∃ t, execLoadTable s = .next t ∧ t.rt = rt ∧ t.ls = clearedForTable s.rt rt s.ls ∧ t.resp = okWith .none ∧
      sameInputs s t := by
  rw [execLoadTable, withTable_table hw, h]
  exact ⟨_, rfl, rfl, rfl, rfl, rfl, rfl, rfl, rfl, rfl⟩

/-- LOAD_TABLE raises the error that its checks find, and does nothing else (R123). -/
theorem execLoadTable_of_error {s : State} {w : TableWords} {e : Status} (hw : s.dataIn = .table w)
    (h : checkTable w = .error e) : execLoadTable s = raise e s := by
  rw [execLoadTable, withTable_table hw, h]

/-- Settles O19: the checks pass, the entries are the words', and each cell goes with its latch flag (R25). -/
theorem loadTableReplacesEveryEntry : Obligations.LoadTableReplacesEveryEntry := by
  intro s w hw hr ho
  have hrange (k : InIdx) : wordOut w[k] < 192 := Nat.lt_succ_of_le (ho k)
  obtain ⟨t, h, hrt, hls, hresp, hsame⟩ := execLoadTable_of_ok hw (checkTable_of_valid hr hrange)
  have entry (k : InIdx) : t.rt[k] = wordEntry w[k] (hrange k) := by rw [hrt, ofFn_get]
  have cell (k : InIdx) : t.ls[k] = latchFlagWritten s.rt[k].lt (w[k].getLsbD 0) s.ls[k] := by
    rw [hls, clearedForTable_get, ← hrt, entry]
    rfl
  refine ⟨t, h, fun k => ?_, fun k hold hnew => ?_, fun k hkept => ?_, hresp, hsame⟩
  · rw [entry]
    exact ⟨rfl, rfl, rfl⟩
  · rw [cell, hold, hnew, latchFlagWritten_rise, LatchCell.cleared]
  · rw [cell, latchFlagWritten_kept hkept]

/-- Settles O20: the checks find the reserved bit first, and raising writes the response port alone. -/
theorem loadTableRejectsABadTableWhole : Obligations.LoadTableRejectsABadTableWhole := by
  intro s w hw
  refine ⟨fun hr => ?_, fun hr ho => ?_⟩
  · exact ⟨_, execLoadTable_of_error hw (checkTable_of_reserved hr), rfl, rfl, rfl, sameInputs_setResp ..⟩
  · exact ⟨_, execLoadTable_of_error hw (checkTable_of_range hr ho), rfl, rfl, rfl, sameInputs_setResp ..⟩

/-- A table whose latch flags are those it replaces clears no cell (R25). -/
theorem clearedForTable_of_kept {old new : RoutingTable} (h : ∀ k : InIdx, old[k].lt = true ∨ new[k].lt = false)
    (ls : LatchStore) : clearedForTable old new ls = ls := by
  refine ext_inIdx fun k => ?_
  rw [clearedForTable_get, latchFlagWritten_kept (h k)]

/-- Settles O21: the words read are the table's entry words, which load as the table itself. -/
theorem loadingTheReadTableChangesNothing : Obligations.LoadingTheReadTableChangesNothing := by
  intro s w hw hread
  have word (k : InIdx) : w[k] = entryWord s.rt[k] := by
    have := (hread k).symm.trans (execReadEntry_fin k s)
    simpa [respond, State.setResp] using this
  have same (k : InIdx) : s.rt[k].lt = true ∨ s.rt[k].lt = false := by cases s.rt[k].lt <;> simp
  obtain ⟨t, h, hrt, hls, hresp, hsame⟩ := execLoadTable_of_ok hw (checkTable_entryWords word)
  exact ⟨t, h, hresp, hrt, hls.trans (clearedForTable_of_kept same _), hsame⟩

/-! ### Requests (R50, R60) -/

/-- A command the host issues is run on the state as the host drives it, with the command accepted. -/
theorem serveOne_issue {i : Instr} (hi : i.wellFormed = true) (p : Payload) (s : State) :
    serveOne (issue i p) s = exec i (s.drive (issue i p)).accept :=
  step_decoded rfl rfl (decodeAfterEncodeIsIdentity i hi)

@[simp] theorem serve_nil (s : State) : serve [] s = some (s, []) := rfl

/-- A sequence is served by serving its first request and then the others (R50). -/
theorem serve_cons {r : Request} {rs : List Request} {s t : State} {q : State × List (Option Response)}
    (h : serveOne r s = .next t) (hq : serve rs t = some q) : serve (r :: rs) s = some (q.1, t.resp :: q.2) := by
  simp [serve, h, hq]

/-- LOAD_TABLE of the entry words of `rt` makes `rt` the table (R123). -/
theorem serveOne_loadTable {w : TableWords} {rt : RoutingTable} (h : ∀ k : InIdx, w[k] = entryWord rt[k]) (s : State) :
    ∃ t, serveOne (issue .loadTable (.table w)) s = .next t ∧ t.resp = okWith .none ∧ t.rt = rt ∧
      t.ls = clearedForTable s.rt rt s.ls := by
  obtain ⟨t, ht, hrt, hls, hresp, _⟩ := execLoadTable_of_ok (s := (s.drive (issue .loadTable (.table w))).accept) rfl
    (checkTable_entryWords h)
  exact ⟨t, (serveOne_issue rfl _ s).trans ht, hresp, hrt, hls⟩

/-! ### Boot (R127, R233) -/

/-- The entry of an index the document does not name is its default (R127). -/
theorem documentEntry_of_unnamed {doc : List PartialEntry} {k : InIdx} (h : ∀ e ∈ doc, e.index ≠ k.val) :
    documentEntry doc k = RouteEntry.reset k := by
  have none_found : (doc.reverse.find? fun e => e.index == k.val) = none := by simpa using h
  rw [documentEntry, none_found]

/-- Settles O12: reset clears every cell, and the LOAD_TABLE that follows finds nothing but clear cells to clear. -/
theorem bootLoadsTheConfigurationDocument : Obligations.BootLoadsTheConfigurationDocument := by
  intro s doc
  have hreset : serveOne .reset s = .next (s.drive .reset).accept.applyReset := step_reset_alone rfl rfl
  have word (k : InIdx) : (documentTable doc)[k] = entryWord (Vector.ofFn (documentEntry doc))[k] := by
    simp [documentTable]
  obtain ⟨t, hload, hresp, hrt, hls⟩ := serveOne_loadTable word (s.drive .reset).accept.applyReset
  have entry (k : InIdx) : t.rt[k] = documentEntry doc k := by simp [hrt]
  refine ⟨t, ?_, entry, fun k hk => (entry k).trans (documentEntry_of_unnamed hk), fun k => ?_⟩
  · rw [bootRequests, serve_cons hreset (serve_cons hload (serve_nil t)), hresp, applyReset_resp]
    rfl
  · rw [hls, clearedForTable_get, applyReset_ls, latchStore_reset_get]
    unfold latchFlagWritten
    split <;> rfl

/-! ### Pseudo-commands (R72) -/

/-- `IDENTITY`'s words are the entry words of the identity table (R68, R72). -/
theorem identityTable_word (k : InIdx) :
    identityTable[k] = entryWord (Vector.ofFn fun k : InIdx => (⟨k, true, false⟩ : RouteEntry))[k] := by
  simp [identityTable, defaultWord, entryWord]

/-- `CLEAR_TABLE`'s words are the entry words of the reset table (R68, R72). -/
theorem defaultTable_word (k : InIdx) : defaultTable[k] = entryWord RoutingTable.reset[k] := by
  rw [routingTable_reset_get]
  simp [defaultTable, defaultWord, entryWord, RouteEntry.reset]

/-- A LOAD_TABLE that sets no latch flag leaves every latch cell (R25, R123). -/
theorem serve_unlatched {w : TableWords} {rt : RoutingTable} (h : ∀ k : InIdx, w[k] = entryWord rt[k])
    (hlt : ∀ k : InIdx, rt[k].lt = false) (s : State) :
    ∃ t, serve [issue .loadTable (.table w)] s = some (t, [okWith .none]) ∧ t.rt = rt ∧ t.ls = s.ls := by
  obtain ⟨t, hload, hresp, hrt, hls⟩ := serveOne_loadTable h s
  refine ⟨t, ?_, hrt, hls.trans (clearedForTable_of_kept (fun k => .inr (hlt k)) _)⟩
  rw [serve_cons hload (serve_nil t), hresp]

/-- Settles O47: ROUTE is two commands that each write one field of the entry, and the other two load a table that sets
no latch flag. -/
theorem pseudoCommandsDoWhatTheyStandFor : Obligations.PseudoCommandsDoWhatTheyStandFor := by
  intro s
  refine ⟨fun k o => ?_, ?_, ?_⟩
  · have hwf : (Instr.setOutput k.val o.val).wellFormed = true ∧ (Instr.setEnabled k.val true).wellFormed = true := by
      simp only [Instr.wellFormed, Bool.and_eq_true, decide_eq_true_eq]
      omega
    obtain ⟨t, ht, htk, htj, htls, htresp, -⟩ :=
      setOutputWritesTheTarget (s.drive (issue (.setOutput k.val o.val) .none)).accept k o
    obtain ⟨u, hu, huk, huj, huls, huresp, -⟩ :=
      setEnabledWritesTheFlag (t.drive (issue (.setEnabled k.val true) .none)).accept k true
    have hserve := serve_cons ((serveOne_issue hwf.1 .none s).trans ht)
      (serve_cons ((serveOne_issue hwf.2 .none t).trans hu) (serve_nil u))
    rw [htresp, huresp] at hserve
    refine ⟨_, u, ?_, hserve, huk.trans ?_, fun j hj => (huj j hj).trans (htj j hj), huls.trans htls⟩
    · simp [expandPseudo, issueAll, hwf]
    · simp only [accept_rt, issue, drive_command_rt, htk]
  · obtain ⟨t, hserve, hrt, hls⟩ := serve_unlatched identityTable_word (fun k => by rw [ofFn_get]) s
    exact ⟨_, t, rfl, hserve, fun k => by rw [hrt, ofFn_get], hls⟩
  · obtain ⟨t, hserve, hrt, hls⟩ := serve_unlatched defaultTable_word
      (fun k => by rw [routingTable_reset_get, RouteEntry.reset]) s
    exact ⟨_, t, rfl, hserve, fun k => by rw [hrt, routingTable_reset_get, RouteEntry.reset], hls⟩

end Sys2Proof.Machine
end

section
/-! PROCESS (42_routing.md): what its loop does to every latch cell and to every output bit. -/

namespace Sys2Proof.Machine

/-! ### Bits of the buffer and of the frame (R41, R42) -/

/-- The byte of output bit `o` stands in the frame after the marker. -/
theorem outFrame_data (order : CrcOrder) (d : DataBuf) (i : Fin 24) : (outFrame order d)[1 + i.val]? = some d[i] := by
  rw [outFrame, List.getElem?_append_left (by simp; omega), frameBody, Nat.add_comm, List.getElem?_cons_succ,
    List.getElem?_append_left (by simp)]
  simp

/-- The frame's output bits are the buffer's. -/
theorem frameBit_outFrame (order : CrcOrder) (d : DataBuf) (o : OutIdx) :
    frameBit (outFrame order d) o = dataBit d o := by
  have ho : o.val / 8 < 24 := by omega
  rw [frameBit, dataBit, List.getD_eq_getElem?_getD, outFrame_data order d ⟨o.val / 8, ho⟩]
  rfl

/-- The output bit that is bit `j` of byte `i` (R42). -/
def outIdxAt (i : Fin 24) (j : Fin 8) : OutIdx := ⟨8 * i.val + (7 - j.val), by omega⟩

theorem dataBit_outIdxAt (d : DataBuf) (i : Fin 24) (j : Fin 8) : dataBit d (outIdxAt i j) = d[i].getLsbD j.val := by
  have hi : (8 * i.val + (7 - j.val)) / 8 = i.val := by omega
  have hj : 7 - (8 * i.val + (7 - j.val)) % 8 = j.val := by omega
  simp only [dataBit, outIdxAt, getbit_eq, hi, hj, Fin.getElem_fin]

/-- A buffer is its output bits. -/
theorem dataBuf_ext {d e : DataBuf} (h : ∀ o, dataBit d o = dataBit e o) : d = e := by
  refine Vector.ext fun i hi => BitVec.eq_of_getLsbD_eq fun j hj => ?_
  have := h (outIdxAt ⟨i, hi⟩ ⟨j, hj⟩)
  rwa [dataBit_outIdxAt, dataBit_outIdxAt] at this

@[simp] theorem dataBit_zero (o : OutIdx) : dataBit (Vector.replicate 24 0) o = false := by simp [dataBit, getbit_eq]

/-! ### The latch cells after the loop (R142, R145) -/

/-- What the whole loop makes of cell `k`: one sample where the entry is enabled and latched. -/
def sampledCell (rt : RoutingTable) (f : InFrame) (ls : LatchStore) (k : InIdx) : LatchCell :=
  if rt[k].en = true ∧ rt[k].lt = true then sampleLatch ls[k] (inBit f k) else ls[k]

/-- The loop over entries other than `k` leaves cell `k`. -/
theorem foldl_routeEntry_ls_of_notMem {rt : RoutingTable} {f : InFrame} {k : InIdx} {ks : List InIdx} (h : k ∉ ks)
    (a : Pass) : (ks.foldl (routeEntry rt f) a).ls[k] = a.ls[k] := by
  induction ks generalizing a with
  | nil => rfl
  | cons j ks ih =>
    rw [List.mem_cons, not_or] at h
    obtain ⟨hj, hks⟩ := h
    rw [List.foldl_cons, ih hks, routeEntry_ls_get, if_neg fun both => hj both.1]

/-- The loop visits every entry once, so each cell is sampled once at most (R142). -/
theorem routeFrame_ls_get (rt : RoutingTable) (f : InFrame) (ls : LatchStore) (k : InIdx) :
    (routeFrame rt f ls).ls[k] = sampledCell rt f ls k := by
  obtain ⟨before, after, hsplit⟩ := List.append_of_mem (List.mem_finRange k)
  have once : (before ++ k :: after).Nodup := hsplit ▸ List.nodup_finRange 192
  obtain ⟨hbefore, hafter⟩ : k ∉ before ∧ k ∉ after := by
    rw [List.nodup_middle, List.nodup_cons, List.mem_append, not_or] at once
    exact once.1
  rw [routeFrame, routeOver, hsplit, List.foldl_append, List.foldl_cons, foldl_routeEntry_ls_of_notMem hafter,
    routeEntry_ls_get, foldl_routeEntry_ls_of_notMem hbefore]
  simp [sampledCell]

/-- A cell that has taken a sample takes the same sample again without change (R149). -/
@[simp] theorem sampleLatch_sampleLatch (c : LatchCell) (cur : Bit) :
    sampleLatch (sampleLatch c cur) cur = sampleLatch c cur := by
  simp [sampleLatch]

/-- A sample is one step of the edge detector: an XOR of the toggle with the rising edge (R145). -/
theorem sampleLatch_eq_edgeDetector (c : LatchCell) (cur : Bit) : sampleLatch c cur = edgeDetector c cur := by
  obtain ⟨prev, tog⟩ := c
  cases prev <;> cases cur <;> simp [sampleLatch, edgeDetector]

/-! ### The output bits after the loop (R142, R143) -/

/-- The value entry `k` writes from a latch store: its input bit, or the toggle of its cell once sampled (R142). -/
def routedValue (rt : RoutingTable) (f : InFrame) (ls : LatchStore) (k : InIdx) : Bit :=
  if rt[k].lt then (sampleLatch ls[k] (inBit f k)).tog else inBit f k

theorem routedValue_direct {rt : RoutingTable} {k : InIdx} (h : rt[k].lt = false) (f : InFrame) (ls : LatchStore) :
    routedValue rt f ls k = inBit f k := by
  simp only [routedValue, h, Bool.false_eq_true, if_false]

theorem routedValue_latch {rt : RoutingTable} {k : InIdx} (h : rt[k].lt = true) (f : InFrame) (ls : LatchStore) :
    routedValue rt f ls k = (sampleLatch ls[k] (inBit f k)).tog := by
  simp only [routedValue, h, if_true]

/-- It is the value the claims speak of. -/
theorem routedValue_eq_entryValue (s : State) (f : InFrame) (k : InIdx) :
    routedValue s.rt f s.ls k = entryValue s f k := by
  unfold routedValue entryValue sampleLatch
  simp

/-- The loop's body writes the output bit of an enabled entry and no other (R44, R143). -/
theorem dataBit_routeEntry (rt : RoutingTable) (f : InFrame) (a : Pass) (k : InIdx) (o : OutIdx) :
    dataBit (routeEntry rt f a k).data o =
      if rt[k].en = true ∧ rt[k].out = o then routedValue rt f a.ls k else dataBit a.data o := by
  cases he : rt[k].en with
  | false => rw [routeEntry_disabled he, if_neg (by simp)]
  | true =>
    simp only [true_and, @eq_comm _ _ o]
    cases hl : rt[k].lt with
    | false => rw [routeEntry_direct he hl, dataBit_outPut, routedValue_direct hl]
    | true => rw [routeEntry_latch he hl, dataBit_outPut, routedValue_latch hl]

/-- Entries that do not target `o` leave output bit `o`. -/
theorem dataBit_foldl_of_untargeted {rt : RoutingTable} {f : InFrame} {o : OutIdx} {ks : List InIdx}
    (h : ∀ k ∈ ks, rt[k].en = true → rt[k].out ≠ o) (a : Pass) :
    dataBit (ks.foldl (routeEntry rt f) a).data o = dataBit a.data o := by
  induction ks generalizing a with
  | nil => rfl
  | cons k ks ih =>
    obtain ⟨hk, hks⟩ := List.forall_mem_cons.1 h
    rw [List.foldl_cons, ih hks, dataBit_routeEntry, if_neg fun both => hk both.1 both.2]

/-- An output bit that no enabled entry targets is 0 (R143). -/
theorem dataBit_routeFrame_of_untargeted {rt : RoutingTable} {o : OutIdx}
    (h : ∀ k : InIdx, rt[k].en = true → rt[k].out ≠ o) (f : InFrame) (ls : LatchStore) :
    dataBit (routeFrame rt f ls).data o = false := by
  rw [routeFrame, routeOver, dataBit_foldl_of_untargeted fun k _ => h k]
  exact dataBit_zero o

/-- An output bit that some do has the value of the last of them: no later entry writes the bit, and no earlier one
samples the last one's cell (R143). -/
theorem dataBit_routeFrame_of_lastToTarget {rt : RoutingTable} {o : OutIdx} {k : InIdx} (h : lastToTarget rt o k)
    (f : InFrame) (ls : LatchStore) : dataBit (routeFrame rt f ls).data o = routedValue rt f ls k := by
  obtain ⟨hen, hout, hlast⟩ := h
  obtain ⟨before, after, hsplit⟩ := List.append_of_mem (List.mem_finRange k)
  have ascending : (before ++ k :: after).Pairwise (· < ·) := hsplit ▸ List.pairwise_lt_finRange 192
  rw [List.pairwise_append, List.pairwise_cons] at ascending
  obtain ⟨_, ⟨hafter, _⟩, hbefore⟩ := ascending
  have fresh : k ∉ before := fun hk => lt_irrefl k (hbefore k hk k List.mem_cons_self)
  rw [routeFrame, routeOver, hsplit, List.foldl_append, List.foldl_cons,
    dataBit_foldl_of_untargeted fun j hj => hlast j (hafter j hj), dataBit_routeEntry, if_pos ⟨hen, hout⟩]
  simp only [routedValue, foldl_routeEntry_ls_of_notMem fresh]

/-- Either no enabled entry targets `o`, or one is the last to. -/
theorem untargeted_or_lastToTarget (rt : RoutingTable) (o : OutIdx) :
    (∀ k : InIdx, rt[k].en = true → rt[k].out ≠ o) ∨ ∃ k, lastToTarget rt o k := by
  by_cases h : ∃ k : InIdx, rt[k].en = true ∧ rt[k].out = o
  · obtain ⟨k, ⟨hen, hout⟩, hmax⟩ :=
      (wellFounded_gt (α := InIdx)).has_min {k | rt[k].en = true ∧ rt[k].out = o} h
    exact .inr ⟨k, hen, hout, fun j hj he ho => hmax j ⟨he, ho⟩ hj⟩
  · exact .inl fun k he ho => h ⟨k, he, ho⟩

/-! ### PROCESS on a valid frame (R140) -/

/-- Settles O22: PROCESS on a valid frame is the loop and the response. -/
theorem processCompletesOnAValidFrame : Obligations.ProcessCompletesOnAValidFrame := by
  intro s f hd hl
  exact ⟨_, execProcess_frame hd hl, rfl, rfl, rfl, rfl, rfl, rfl, rfl, rfl⟩

/-- Settles O24: each cell is sampled once where its entry is enabled and latched, and a sample is an edge detector's
step. -/
theorem processStepsEveryEdgeDetector : Obligations.ProcessStepsEveryEdgeDetector := by
  intro s f hd hl
  obtain ⟨t, h, _, hls, _⟩ := processCompletesOnAValidFrame s f hd hl
  refine ⟨t, h, fun k => ⟨fun hk => ?_, fun hk => ?_⟩⟩ <;> rw [hls, routeFrame_ls_get, sampledCell]
  · rw [if_pos hk, sampleLatch_eq_edgeDetector, edgeDetector]
  · refine if_neg ?_
    rintro ⟨he, hlt⟩
    rw [he, hlt] at hk
    simp at hk

/-- Settles O25: the frame's bits are the buffer's, which the loop leaves at the last enabled entry's value or at 0. -/
theorem processRoutesLastEnabledEntryToEachOutput : Obligations.ProcessRoutesLastEnabledEntryToEachOutput := by
  intro s f hd hl
  obtain ⟨t, h, hresp, _⟩ := processCompletesOnAValidFrame s f hd hl
  refine ⟨t, _, h, hresp, fun o => ⟨fun hnone => ?_, fun k hk => ?_⟩⟩ <;> rw [frameBit_outFrame]
  · exact dataBit_routeFrame_of_untargeted hnone ..
  · rw [dataBit_routeFrame_of_lastToTarget hk, routedValue_eq_entryValue]

/-- Entry `k` is enabled and targets output bit `o`. -/
def Targets (rt : RoutingTable) (o : OutIdx) (k : InIdx) : Prop := rt[k].en = true ∧ rt[k].out = o

theorem untargeted_iff {rt : RoutingTable} {o : OutIdx} :
    (∀ k : InIdx, rt[k].en = true → rt[k].out ≠ o) ↔ ∀ k, ¬ Targets rt o k := by
  simp only [Targets, not_and, ne_eq]

theorem lastToTarget_iff {rt : RoutingTable} {o : OutIdx} {k : InIdx} :
    lastToTarget rt o k ↔ Targets rt o k ∧ ∀ j, k < j → ¬ Targets rt o j := by
  simp only [lastToTarget, Targets, not_and, ne_eq, and_assoc]

/-- With `en = 0` written to entry `k` and no other entry changed, the others target what they did. -/
theorem targets_disabled {rt rt' : RoutingTable} {k : InIdx} (hk : rt'[k].en = false)
    (hj : ∀ j : InIdx, j ≠ k → rt'[j] = rt[j]) (o : OutIdx) (j : InIdx) :
    Targets rt' o j ↔ j ≠ k ∧ Targets rt o j := by
  by_cases h : j = k
  · rw [h, Targets, hk]
    simp
  · simp only [Targets, hj j h, ne_eq, h, not_false_eq_true, true_and]

/-- Settles O28: disabling `k` leaves every entry's value and every other entry's target, so an output bit that `k` does
not target has the same last entry before and after. -/
theorem disablingAnEntryFreesItsOutputOnly : Obligations.DisablingAnEntryFreesItsOutputOnly := by
  intro s f k hd hl hk
  obtain ⟨d, hset, hdk, hdj, hdls, -, -, hdin, -, hdcfg, -⟩ := setEnabledWritesTheFlag s k false
  have value (j : InIdx) : entryValue d f j = entryValue s f j := by
    have latched : d.rt[j].lt = s.rt[j].lt := by
      by_cases h : j = k
      · rw [h, hdk]
      · rw [hdj j h]
    simp only [entryValue, latched, hdls]
  have targets := targets_disabled (by rw [hdk]) hdj
  obtain ⟨t, F, ht, hF, bitF⟩ := processRoutesLastEnabledEntryToEachOutput s f hd hl
  obtain ⟨u, G, hu, hG, bitG⟩ :=
    processRoutesLastEnabledEntryToEachOutput d f (hdin.trans hd) (by rw [hdcfg]; exact hl)
  refine ⟨d, t, u, F, G, hset, ht, hF, hu, hG, fun o ho => ?_, fun hnone => ?_, fun j hj => ?_⟩
  · have kept (j : InIdx) : Targets d.rt o j ↔ Targets s.rt o j := by
      rw [targets, and_iff_right_iff_imp]
      rintro ⟨_, hout⟩ rfl
      exact ho hout.symm
    obtain ⟨zeroF, lastF⟩ := bitF o
    obtain ⟨zeroG, lastG⟩ := bitG o
    rcases untargeted_or_lastToTarget s.rt o with hnone | ⟨j, hj⟩
    · have hnone' := untargeted_iff.2 fun i => (kept i).not.2 (untargeted_iff.1 hnone i)
      rw [zeroF hnone, zeroG hnone']
    · have hj' : lastToTarget d.rt o j := by
        simpa only [lastToTarget_iff, kept] using hj
      rw [lastF j hj, lastG j hj', value]
  · refine (bitG _).1 (untargeted_iff.2 fun j hj => ?_)
    obtain ⟨hne, hen, hout⟩ := (targets _ j).1 hj
    exact hnone j hne hen hout
  · rw [(bitG _).2 j hj, value]

end Sys2Proof.Machine
end

section
/-! The laws of PROCESS (42_routing.md, Laws and corner cases; R29, R145 to R150). -/

namespace Sys2Proof.Machine

/-! ### What the loop depends on -/

/-- An input bit is read from the first 25 bytes of a frame (R43, R150). -/
theorem inBit_congr {f g : InFrame} (h : f.bytes.take 25 = g.bytes.take 25) (k : InIdx) : inBit f k = inBit g k := by
  have hk : 1 + k.val / 8 < 25 := by omega
  have byte : f.bytes[1 + k.val / 8]? = g.bytes[1 + k.val / 8]? := by
    rw [← List.getElem?_take_of_lt hk, h, List.getElem?_take_of_lt hk]
  unfold inBit
  congr 1
  rwa [List.getElem?_eq_getElem, List.getElem?_eq_getElem, Option.some.injEq] at byte

theorem routeEntry_congr {f g : InFrame} (h : ∀ k, inBit f k = inBit g k) (rt : RoutingTable) :
    routeEntry rt f = routeEntry rt g := by
  funext a k
  simp only [routeEntry, h]

/-- Settles O31: the loop reads the frames through their input bits alone. -/
theorem processIgnoresTrailingBytes : Obligations.ProcessIgnoresTrailingBytes := by
  intro s t f g hsd hsl htd htl hbytes hrt hls hord
  have loop : routeFrame s.rt f s.ls = routeFrame t.rt g t.ls := by
    simp only [routeFrame, routeOver, routeEntry_congr (inBit_congr hbytes), hrt, hls]
  refine ⟨_, _, execProcess_frame hsd hsl, execProcess_frame htd htl, ?_, ?_⟩
  · simp only [setResp_resp, loop, hord]
  · simp only [setResp_ls, loop]

/-- Settles O32: a disabled entry contributes nothing, so the loop may leave it out. -/
theorem enabledIndexGivesTheSameResult : Obligations.EnabledIndexGivesTheSameResult := by
  intro rt f ls
  rw [routeFrame, routeOver, routeOver, enabledIndex, List.foldl_filter]
  congr 1
  funext a k
  split
  next => rfl
  next h => rw [routeEntry_disabled (by simpa using h)]

/-! ### Tables with nothing enabled, and with the identity -/

/-- With every entry disabled the loop leaves the latch store and the zero buffer (R148). -/
theorem routeFrame_allDisabled {rt : RoutingTable} (h : ∀ k : InIdx, rt[k].en = false) (f : InFrame)
    (ls : LatchStore) : routeFrame rt f ls = { ls := ls, data := Vector.replicate 24 0 } :=
  List.foldl_fixed' (fun k => routeEntry_disabled (h k) f _) _

/-- The checksum of the all-zero frame's body (R148). -/
theorem crc16_zeroBody : crc16 (frameBody (Vector.replicate 24 0)) = 0x253F := by decide +kernel

/-- Settles O29: the buffer stays all zero, and its body's checksum is a fixed value. -/
theorem allDisabledTableGivesTheZeroFrame : Obligations.AllDisabledTableGivesTheZeroFrame := by
  intro s f hd hl hoff
  obtain ⟨t, h, hresp, hls, hrt, _⟩ := processCompletesOnAValidFrame s f hd hl
  rw [routeFrame_allDisabled hoff] at hresp hls
  have tail (order : CrcOrder) : (outFrame order (Vector.replicate 24 0)).drop 26 = crcBytes order 0x253F := by
    rw [outFrame, crc16_zeroBody, List.drop_left' (frameBody_length _)]
  refine ⟨t, _, h, hresp, hls, hrt, ?_, fun ho => ?_, fun ho => ?_⟩
  · rw [outFrame_take]
    rfl
  · rw [ho, tail]
    rfl
  · rw [ho, tail]
    rfl

/-- Under the identity table each output bit is the input bit of its number. -/
theorem dataBit_routeFrame_identity {rt : RoutingTable}
    (h : ∀ k : InIdx, rt[k] = { out := k, en := true, lt := false }) (f : InFrame) (ls : LatchStore) (o : OutIdx) :
    dataBit (routeFrame rt f ls).data o = inBit f o := by
  have last : lastToTarget rt o o := by
    refine ⟨by rw [h], by rw [h], fun j hj _ => ?_⟩
    rw [h]
    exact ne_of_gt hj
  rw [dataBit_routeFrame_of_lastToTarget last, routedValue_direct (by rw [h])]

/-- Settles O33: bit for bit, and so byte for byte, the buffer is the frame's data region. -/
theorem identityTablePassesTheDataThrough : Obligations.IdentityTablePassesTheDataThrough := by
  intro s f hd hl hid
  obtain ⟨t, h, hresp, hls, _⟩ := processCompletesOnAValidFrame s f hd hl
  refine ⟨t, _, h, hresp, ?_, ?_⟩
  · rw [hls]
    refine ext_inIdx fun k => ?_
    rw [routeFrame_ls_get, sampledCell, if_neg (by rw [hid]; simp)]
  · have long : 25 ≤ f.bytes.length := f.long
    have byte (i : Fin 24) : (routeFrame s.rt f s.ls).data[i] = f.bytes[1 + i.val]'(by omega) := by
      refine BitVec.eq_of_getLsbD_eq fun j hj => ?_
      have bit := dataBit_routeFrame_identity hid f s.ls (outIdxAt i ⟨j, hj⟩)
      have hi' : (8 * i.val + (7 - j)) / 8 = i.val := by omega
      have hj' : 7 - (8 * i.val + (7 - j)) % 8 = j := by omega
      rw [dataBit_outIdxAt] at bit
      simpa only [inBit, outIdxAt, getbit_eq, hi', hj'] using bit
    refine List.ext_getElem? fun i => ?_
    by_cases hi : i < 24
    · rw [List.getElem?_take_of_lt hi, List.getElem?_take_of_lt hi, List.getElem?_drop, List.getElem?_drop,
        outFrame_data _ _ ⟨i, hi⟩, byte ⟨i, hi⟩, List.getElem?_eq_getElem]
    · rw [List.getElem?_take_eq_none (not_lt.1 hi), List.getElem?_take_eq_none (not_lt.1 hi)]

/-! ### Repeated frames (R149) -/

/-- After the loop, the loop on the same frame leaves every cell: a cell that was sampled holds the sample. -/
theorem sampledCell_again (rt : RoutingTable) (f : InFrame) (ls : LatchStore) (k : InIdx) :
    sampledCell rt f (routeFrame rt f ls).ls k = sampledCell rt f ls k := by
  rw [sampledCell, routeFrame_ls_get]
  split
  · simp only [sampledCell, *, and_self, if_true, sampleLatch_sampleLatch]
  · rfl

/-- After the loop, an enabled entry writes the same value on the same frame. -/
theorem routedValue_again {rt : RoutingTable} {k : InIdx} (hen : rt[k].en = true) (f : InFrame) (ls : LatchStore) :
    routedValue rt f (routeFrame rt f ls).ls k = routedValue rt f ls k := by
  cases hl : rt[k].lt with
  | false => rw [routedValue_direct hl, routedValue_direct hl]
  | true =>
    rw [routedValue_latch hl, routedValue_latch hl, routeFrame_ls_get, sampledCell, if_pos ⟨hen, hl⟩,
      sampleLatch_sampleLatch]

/-- The loop on its own latch store and the same frame gives the same latch store and the same buffer (R149). -/
theorem routeFrame_again (rt : RoutingTable) (f : InFrame) (ls : LatchStore) :
    routeFrame rt f (routeFrame rt f ls).ls = routeFrame rt f ls := by
  have cells : (routeFrame rt f (routeFrame rt f ls).ls).ls = (routeFrame rt f ls).ls :=
    ext_inIdx fun k => by rw [routeFrame_ls_get, sampledCell_again, routeFrame_ls_get]
  have data : (routeFrame rt f (routeFrame rt f ls).ls).data = (routeFrame rt f ls).data := by
    refine dataBuf_ext fun o => ?_
    rcases untargeted_or_lastToTarget rt o with hnone | ⟨k, hk⟩
    · rw [dataBit_routeFrame_of_untargeted hnone, dataBit_routeFrame_of_untargeted hnone]
    · rw [dataBit_routeFrame_of_lastToTarget hk, dataBit_routeFrame_of_lastToTarget hk, routedValue_again hk.1]
  calc routeFrame rt f (routeFrame rt f ls).ls
      = ⟨(routeFrame rt f (routeFrame rt f ls).ls).ls, (routeFrame rt f (routeFrame rt f ls).ls).data⟩ := rfl
    _ = routeFrame rt f ls := by rw [cells, data]

/-- Settles O30: a rejected frame is rejected again with the same response, and a valid one finds its own latch store. -/
theorem processIsIdempotentOnARepeatedFrame : Obligations.ProcessIsIdempotentOnARepeatedFrame := by
  intro s t h
  obtain ⟨p, hd, hl, _⟩ := withBytes_next (show execProcess s = _ from h)
  cases hc : checkFrame p with
  | error e =>
    have again (r : Option Response) : execProcess (s.setResp r) = raise e (s.setResp r) :=
      execProcess_of_error hd hl hc
    obtain rfl := (raise_eq_next ..).1 ((execProcess_of_error hd hl hc).symm.trans h)
    rw [exec_process, again, raise_eq_next]
    rfl
  | ok f =>
    obtain rfl : f.bytes = p := by
      rcases checkFrame_cases p with ⟨g, hg, e⟩ | ⟨_, e⟩ | ⟨_, _, e⟩ <;> rw [hc] at e <;> cases e
      exact hg
    have ht := (respond_eq_next ..).1 ((execProcess_frame hd hl).symm.trans h)
    have htd : t.dataIn = .bytes f.bytes := by rw [ht, setResp_dataIn, hd]
    have htl : f.bytes.length ≤ t.cfg.maxPayload := by rwa [ht, setResp_cfg]
    rw [exec_process, execProcess_frame htd htl, respond_eq_next, ht]
    simp only [setResp_rt, setResp_ls, setResp_cfg, routeFrame_again]
    rfl

/-! ### Sequences of frames (R145) -/

/-- One served PROCESS of a valid frame: the table and the configuration stay, and the cell of an enabled latch entry
takes one sample. -/
theorem serveOne_process {s : State} {f : InFrame} (hl : f.bytes.length ≤ s.cfg.maxPayload) :
    ∃ t, serveOne (issue .process (.bytes f.bytes)) s = .next t ∧ t.rt = s.rt ∧ t.cfg = s.cfg ∧
      ∀ k : InIdx, s.rt[k].en = true → s.rt[k].lt = true → t.ls[k] = sampleLatch s.ls[k] (inBit f k) := by
  obtain ⟨t, h, _, hls, hrt, -, -, -, hcfg, -⟩ :=
    processCompletesOnAValidFrame (s.drive (issue .process (.bytes f.bytes))).accept f rfl hl
  refine ⟨t, (serveOne_issue rfl _ s).trans h, hrt, hcfg, fun k hen hlt => ?_⟩
  rw [hls, routeFrame_ls_get, sampledCell]
  exact if_pos ⟨hen, hlt⟩

/-- One sample flips the toggle once for the rising edge it may have, and the samples after it count from it (R145). -/
theorem tog_sampleLatch_risingEdges (c : LatchCell) (cur : Bit) (rest : List Bit) :
    ((sampleLatch c cur).tog ^^ (risingEdges cur rest % 2 == 1)) =
      (c.tog ^^ (risingEdges c.prev (cur :: rest) % 2 == 1)) := by
  have flip (n : Nat) : ((1 + n) % 2 == 1) = !(n % 2 == 1) := by
    rcases Nat.mod_two_eq_zero_or_one n with h | h <;> simp [Nat.add_mod, h]
  rw [risingEdges, sampleLatch]
  split
  · rw [flip, Bool.not_xor, Bool.xor_not]
  · rw [Nat.zero_add]

/-- Settles O34: each served frame is one sample, and the frames after it are counted from the sample it leaves. -/
theorem latchToggleCountsRisingEdges : Obligations.LatchToggleCountsRisingEdges := by
  intro fs
  induction fs with
  | nil =>
    intro s k _ _ _
    exact ⟨_, rfl, rfl, by simp [risingEdges]⟩
  | cons f fs ih =>
    intro s k hen hlt hfs
    obtain ⟨hf, hfs⟩ := List.forall_mem_cons.1 hfs
    obtain ⟨t, ht, hrt, hcfg, hcell⟩ := serveOne_process hf
    obtain ⟨q, hq, hqrt, htog⟩ := ih t k (by rw [hrt]; exact hen) (by rw [hrt]; exact hlt) (by rw [hcfg]; exact hfs)
    refine ⟨_, serve_cons ht hq, hqrt.trans hrt, htog.trans ?_⟩
    rw [hcell k hen hlt]
    exact tog_sampleLatch_risingEdges ..

end Sys2Proof.Machine
end

section
/-! The checksum's laws (40_crc.md): its steps are linear over XOR, which gives the lookup table and the residue; and the
commands that answer a checksum or one bit of a payload (40_crc.md, 43_signal.md). -/

namespace Sys2Proof.Machine

/-! ### Shift steps over XOR (R100, R103) -/

/-- A shift step is linear: the polynomial enters once for each bit 0 shifted out, and twice is not at all. -/
theorem crcShift_xor (c d : Crc) : crcShift (c ^^^ d) = crcShift c ^^^ crcShift d := by
  unfold crcShift
  rw [BitVec.getLsbD_xor, BitVec.ushiftRight_xor_distrib]
  cases c.getLsbD 0 <;> cases d.getLsbD 0
  · rfl
  · exact BitVec.xor_assoc ..
  · change (c >>> 1 ^^^ d >>> 1) ^^^ crcPoly = (c >>> 1 ^^^ crcPoly) ^^^ d >>> 1
    rw [BitVec.xor_assoc, BitVec.xor_comm (d >>> 1), BitVec.xor_assoc]
  · change c >>> 1 ^^^ d >>> 1 = (c >>> 1 ^^^ crcPoly) ^^^ (d >>> 1 ^^^ crcPoly)
    rw [BitVec.xor_comm (d >>> 1) crcPoly, BitVec.xor_assoc, ← BitVec.xor_assoc crcPoly, BitVec.xor_self,
      BitVec.zero_xor]

theorem crcShift8_xor (c d : Crc) : crcShift8 (c ^^^ d) = crcShift8 c ^^^ crcShift8 d := by
  simp only [crcShift8, crcShift_xor]

/-- Shift steps that shift out zeros only are plain shifts. -/
theorem crcShift_iterate_of_zeros {c : Crc} {n : Nat} (h : ∀ i < n, c.getLsbD i = false) : crcShift^[n] c = c >>> n := by
  induction n with
  | zero => simp
  | succ n ih =>
    rw [Function.iterate_succ_apply', ih fun i hi => h i (by omega), crcShift, BitVec.getLsbD_ushiftRight,
      h _ (by omega), ← BitVec.shiftRight_add]
    rfl

/-- The shift steps of a value whose low byte is 0 bring its high byte down. -/
theorem crcShift8_high (c : Crc) : crcShift8 (c >>> 8 <<< 8) = c >>> 8 := by
  have zeros : ∀ i < 8, (c >>> 8 <<< 8).getLsbD i = false := by
    intro i hi
    simp [hi]
  rw [crcShift8_eq_iterate, crcShift_iterate_of_zeros zeros]
  apply BitVec.eq_of_getLsbD_eq
  intro i hi
  interval_cases i <;> simp

/-- A byte enters the low byte of the running value alone, so the high byte and the low byte part by XOR. -/
theorem xor_byte_split (c : Crc) (b : Byte) :
    c ^^^ b.setWidth 16 = (c >>> 8 <<< 8) ^^^ ((c ^^^ b.setWidth 16).setWidth 8).setWidth 16 := by
  apply BitVec.eq_of_getLsbD_eq
  intro i hi
  interval_cases i <;> simp

/-- One step of the lookup-table form is one step of the bitwise form (R103). -/
theorem crcTableByte_eq_crcByte (c : Crc) (b : Byte) : crcTableByte c b = crcByte c b := by
  calc crcTableByte c b
      = c >>> 8 ^^^ crcShift8 (((c ^^^ b.setWidth 16).setWidth 8).setWidth 16) := rfl
    _ = crcShift8 (c >>> 8 <<< 8) ^^^ crcShift8 (((c ^^^ b.setWidth 16).setWidth 8).setWidth 16) := by
      rw [crcShift8_high]
    _ = crcByte c b := by rw [← crcShift8_xor, ← xor_byte_split, crcByte]

/-- Settles O39: the two forms take the same step on every byte. -/
theorem lookupTableChecksumIsTheChecksum : Obligations.LookupTableChecksumIsTheChecksum := by
  refine ⟨crcTableByte_eq_crcByte, fun bs => ?_⟩
  rw [crc16Table, crc16, funext₂ crcTableByte_eq_crcByte]

/-! ### Residue and check value (R104, R105) -/

/-- The running value's own low byte leaves its high byte. -/
theorem crcByte_loByte (c : Crc) : crcByte c (loByte c) = c >>> 8 := by
  have high : c ^^^ (loByte c).setWidth 16 = c >>> 8 <<< 8 := by
    apply BitVec.eq_of_getLsbD_eq
    intro i hi
    interval_cases i <;> simp [loByte]
  rw [crcByte, high, crcShift8_high]

/-- Its high byte then leaves nothing. -/
theorem crcByte_hiByte (c : Crc) : crcByte (c >>> 8) (hiByte c) = 0 := by
  have zero : c >>> 8 ^^^ (hiByte c).setWidth 16 = 0 := by
    apply BitVec.eq_of_getLsbD_eq
    intro i hi
    interval_cases i <;> simp [hiByte]
  rw [crcByte, zero]
  rfl

theorem crc16_append_pair (d : List Byte) (a b : Byte) : crc16 (d ++ [a, b]) = crcByte (crcByte (crc16 d) a) b := by
  rw [← crc16_concat, ← crc16_concat, List.append_assoc]
  rfl

/-- Settles O41: low byte first, the two bytes clear the running value; high byte first, the empty sequence and one zero
byte leave different values. -/
theorem residueIsZeroLowByteFirstOnly : Obligations.ResidueIsZeroLowByteFirstOnly := by
  refine ⟨fun d => ?_, fun ⟨r, hr⟩ => ?_⟩
  · rw [crc16_append_pair]
    exact (congrArg (crcByte · _) (crcByte_loByte _)).trans (crcByte_hiByte _)
  · have differ : crc16 ([] ++ [(crc16 []).extractLsb' 8 8, (crc16 []).extractLsb' 0 8]) ≠
        crc16 ([0] ++ [(crc16 [0]).extractLsb' 8 8, (crc16 [0]).extractLsb' 0 8]) := by decide +kernel
    exact differ ((hr []).trans (hr [0]).symm)

/-- Settles O40: nine bytes, evaluated. -/
theorem checksumCheckValue : Obligations.ChecksumCheckValue := by
  unfold Obligations.ChecksumCheckValue
  decide +kernel

/-! ### CRC16 and CRC_CHECK (R101, R102) -/

/-- Settles O37: the command answers the checksum of the payload it takes. -/
theorem crc16AnswersTheChecksum : Obligations.Crc16AnswersTheChecksum := by
  intro s p hd hl
  refine ⟨_, withBytes_bytes hd hl _, rfl, rfl, rfl, sameInputs_setResp .., ?_⟩
  rintro rfl
  rfl

/-- CRC_CHECK answers what the validator finds (R102, R203). -/
theorem execCrcCheck_of_ok {s : State} {p : List Byte} {m : Bit} {c : Crc} (hd : s.dataIn = .bytes p)
    (hl : p.length ≤ s.cfg.maxPayload) (h : crcCheck s.cfg.crcOrder p = .ok (m, c)) :
    execCrcCheck s = respond (.crcCheck (checkBits m c)) s := by
  rw [execCrcCheck, withBytes_bytes hd hl, h]

theorem execCrcCheck_of_short {s : State} {p : List Byte} (hd : s.dataIn = .bytes p)
    (hl : p.length ≤ s.cfg.maxPayload) (h : p.length < 2) : execCrcCheck s = raise .frameTooShort s := by
  rw [execCrcCheck, withBytes_bytes hd hl, crcCheck, dif_pos h]

/-- A checksum is the word of two bytes exactly where they are its high and its low byte (R10). -/
theorem eq_crcWord_iff {c : Crc} {hi lo : Byte} : c = crcWord hi lo ↔ hiByte c = hi ∧ loByte c = lo := by
  constructor
  · rintro rfl
    constructor <;> (apply BitVec.eq_of_getLsbD_eq; intro i hi; interval_cases i <;> simp [hiByte, loByte, crcWord])
  · rintro ⟨rfl, rfl⟩
    obtain ⟨_, _, hbytes, hcrc⟩ := crcOfBytes_crcBytes .hiFirst c
    cases hbytes
    exact hcrc.symm

/-- Settles O38: the validator compares the checksum with the word of the last two bytes, in the configured order. -/
theorem crcCheckComparesTheStoredChecksum : Obligations.CrcCheckComparesTheStoredChecksum := by
  intro s p hd hl
  refine ⟨fun hshort => ?_, fun d b0 b1 hp => ?_⟩
  · exact ⟨_, execCrcCheck_of_short hd hl hshort, rfl, rfl, rfl, sameInputs_setResp ..⟩
  · have check := crcCheck_append s.cfg.crcOrder d b0 b1
    rw [← hp] at check
    refine ⟨_, _, execCrcCheck_of_ok hd hl check, rfl, extractLsb'_checkBits .., fun ho => ?_, fun ho => ?_, rfl, rfl,
      sameInputs_setResp ..⟩ <;> rw [getLsbD_checkBits_match, beq_iff_eq, ho]
    · exact eq_crcWord_iff
    · exact eq_crcWord_iff.trans and_comm

/-- Settles O42: the validator finds the checksum that was appended in its own order. -/
theorem appendedChecksumMatches : Obligations.AppendedChecksumMatches := by
  intro s d hl hd
  have fits : (d ++ crcBytes s.cfg.crcOrder (crc16 d)).length ≤ s.cfg.maxPayload := by simpa using hl
  exact ⟨_, _, execCrcCheck_of_ok hd fits (crcCheck_appended _ d), rfl, getLsbD_checkBits_match .., extractLsb'_checkBits ..⟩

/-- Settles O27: the frame is its body with the body's checksum appended, and 28 bytes are within every legal bound. -/
theorem processFramePassesCrcCheck : Obligations.ProcessFramePassesCrcCheck := by
  intro s t u F h ht hcfg ⟨hmin, _⟩ hu
  obtain ⟨d, rfl⟩ := execProcess_frame_eq h ht
  rw [← hcfg] at hu ⊢
  rw [outFrame_take]
  exact appendedChecksumMatches u (frameBody d) (by rwa [frameBody_length]) hu

/-! ### READ_SIGNAL (R170 to R173) -/

theorem readSignal_of_le {p : List Byte} {bi : Nat} (h : p.length ≤ bi + 1) (j : Nat) : readSignal bi j p = false :=
  dif_neg (not_lt.2 h)

theorem readSignal_of_lt {p : List Byte} {bi : Nat} (h : bi + 1 < p.length) (j : Nat) :
    readSignal bi j p = p[bi + 1].getLsbD j := by
  rw [readSignal, dif_pos h, getbit_eq]

/-- READ_SIGNAL answers the bit the rule reads (R170). -/
theorem execReadSignal_bytes {s : State} {p : List Byte} (hd : s.dataIn = .bytes p) (hl : p.length ≤ s.cfg.maxPayload)
    (bi j : Nat) : execReadSignal bi j s = respond (.signal (BitVec.ofBool (readSignal bi j p))) s := by
  rw [execReadSignal, withBytes_bytes hd hl]

/-- Settles O43: the bit is the rule's, in and out of range. -/
theorem readSignalAnswersOneBit : Obligations.ReadSignalAnswersOneBit := by
  intro s p bi j hd hl
  refine ⟨_, readSignal bi j p, execReadSignal_bytes hd hl bi j, rfl, fun h => readSignal_of_le h j, fun x hx => ?_, rfl,
    rfl, sameInputs_setResp ..⟩
  obtain ⟨h, rfl⟩ := List.getElem?_eq_some_iff.1 hx
  rw [readSignal_of_lt h, BitVec.getLsbD_ushiftRight]
  rfl

/-- Settles O44: the flat address names the byte and the bit that PROCESS samples. -/
theorem flatAddressReadsTheRoutedBit : Obligations.FlatAddressReadsTheRoutedBit := by
  intro s f k hd hl
  refine ⟨rfl, rfl, _, execReadSignal_bytes hd hl _ _, ?_⟩
  have long : 25 ≤ f.bytes.length := f.long
  have bit : readSignal (k.val / 8) (7 - k.val % 8) f.bytes = inBit f k := by
    rw [readSignal_of_lt (by omega), inBit, getbit_eq]
    simp only [Nat.add_comm 1]
  rw [← bit]
  rfl

/-- Settles O46: the host yields 0, and no payload within a legal bound has a byte at that index. -/
theorem byteIndexAbove255ReadsZero : Obligations.ByteIndexAbove255ReadsZero := by
  intro s p addr a ⟨_, hmax⟩ hl haddr ha
  have zero : readSignal a.byteIndex a.bitIndex p = false := readSignal_of_le (by omega) _
  refine ⟨?_, zero⟩
  simp only [expandPseudo, haddr, if_pos ha, zero]

end Sys2Proof.Machine
end

section
/-! Several hosts (R51, R213): requests that only observe leave what the other host's requests depend on. -/

namespace Sys2Proof.Machine

/-! ### What a request depends on -/

/-- Two states that differ at most in what stands on the ports, all of which the next request drives or a step clears. -/
def SameBehindPorts (s t : State) : Prop :=
  t.toCoreState = s.toCoreState ∧ t.cfg = s.cfg ∧ t.draws = s.draws

/-- A step sees the response port of the state before it in no way (R202). -/
theorem step_congr {s t : State} (hrst : s.rst = t.rst) (hcmd : s.cmd = t.cmd) (h : s.accept = t.accept) :
    step s = step t := by
  have hdraws : s.draws = t.draws := congrArg (·.draws) h
  simp only [step, stepWith, resetStep, commandStep, hrst, hcmd, h, hdraws]

/-- On states that differ in the ports alone a request has the same response, and the next states again differ in the
ports alone. -/
theorem serveOne_sameBehindPorts {s s' t : State} (r : Request) (hs : SameBehindPorts s s')
    (h : serveOne r s = .next t) :
    ∃ t', serveOne r s' = .next t' ∧ t'.resp = t.resp ∧ SameBehindPorts t t' := by
  obtain ⟨hcore, hcfg, hdraws⟩ := hs
  cases r with
  | command w p =>
    have same : step (s'.drive (.command w p)) = step (s.drive (.command w p)) := by
      refine step_congr rfl rfl ?_
      simp only [State.accept, State.drive, State.present, hcore, hcfg, hdraws]
    exact ⟨t, same.trans h, rfl, rfl, rfl, rfl⟩
  | resetOver w p =>
    have same : step (s'.drive (.resetOver w p)) = step (s.drive (.resetOver w p)) := by
      refine step_congr rfl rfl ?_
      simp only [State.accept, State.drive, State.present, hcore, hcfg, hdraws]
    exact ⟨t, same.trans h, rfl, rfl, rfl, rfl⟩
  | reset =>
    obtain rfl := Host.Outcome.next.inj ((step_reset_alone (s := s.drive .reset) rfl rfl).symm.trans h)
    refine ⟨_, step_reset_alone rfl rfl, by simp, ?_, by simpa using hcfg, by simpa using hdraws⟩
    simp only [State.applyReset]

/-- A whole request that only observes is served, and changes nothing behind the ports (R214). -/
theorem serveOne_observing {s : State} {r : Request} (hobs : requestObserves r = true)
    (hwhole : requestWhole s.cfg r) : ∃ t, serveOne r s = .next t ∧ SameBehindPorts s t := by
  cases r with
  | reset | resetOver _ _ => cases hobs
  | command w p =>
    have run : serveOne (.command w p) s = runWord exec w (s.drive (.command w p)).accept := step_word rfl rfl
    rw [run]
    rcases runWord_cases exec w (s.drive (.command w p)).accept with ⟨i, hd, e⟩ | ⟨_, e⟩ <;> rw [e]
    · have hi : readOnly i = true := by simpa [requestObserves, hd] using hobs
      obtain ⟨t, ht⟩ := exec_completes (s := (s.drive (.command w p)).accept) (hwhole i hd)
      obtain ⟨r, rfl⟩ := exec_readOnly_next hi ht
      exact ⟨_, ht, rfl, rfl, rfl⟩
    · exact ⟨_, rfl, rfl, rfl, rfl⟩

/-- No request changes the configuration (R46). -/
theorem serveOne_cfg {r : Request} {s t : State} (h : serveOne r s = .next t) : t.cfg = s.cfg := by
  obtain ⟨hcfg, _⟩ := step_next h
  cases r <;> exact hcfg

/-- A sequence is served only where its first request is, and then the others. -/
theorem serve_cons_eq_some {r : Request} {rs : List Request} {s : State} {q : State × List (Option Response)}
    (h : serve (r :: rs) s = some q) :
    ∃ t p, serveOne r s = .next t ∧ serve rs t = some p ∧ q = (p.1, t.resp :: p.2) := by
  rw [serve] at h
  cases hr : serveOne r s with
  | next t =>
    rw [hr] at h
    obtain ⟨p, hp, hq⟩ := Option.map_eq_some_iff.1 h
    exact ⟨t, p, rfl, hp, hq.symm⟩
  | fault e => rw [hr] at h; cases h
  | refused e => rw [hr] at h; cases h

/-! ### Every interleaving (R51) -/

/-- The first request of an interleaving of two streams is the first of one of them. -/
theorem two_streams_split {before after : List (List Request)} {r : Request} {t a b : List Request}
    (h : before ++ (r :: t) :: after = [a, b]) :
    (a = r :: t ∧ before ++ t :: after = [t, b]) ∨ (b = r :: t ∧ before ++ t :: after = [a, t]) := by
  match before, h with
  | [], h =>
    obtain ⟨rfl, rfl⟩ := List.cons.inj h
    exact .inl ⟨rfl, rfl⟩
  | [x], h =>
    obtain ⟨hx, h⟩ := List.cons.inj h
    obtain ⟨rfl, rfl⟩ := List.cons.inj h
    exact .inr ⟨rfl, by rw [hx]; rfl⟩
  | _ :: _ :: _, h => simp at h

/-- The interleaving, served on a state that differs from the other host's in the ports alone, ends in such a state again
and gives the other host's responses among its own: a request of that host is served on both, and one that observes on the
interleaving's side alone. -/
theorem serve_interleaved {streams : List (List Request)} {rs : List Request} (h : Interleaving streams rs) :
    ∀ (a b : List Request) (s s' : State) (q : State × List (Option Response)), streams = [a, b] →
      (∀ r ∈ b, requestObserves r = true ∧ requestWhole s.cfg r) → SameBehindPorts s s' → serve a s = some q →
      ∃ u, serve rs s' = some u ∧ SameBehindPorts q.1 u.1 ∧ q.2.Sublist u.2 := by
  induction h with
  | done hempty =>
    rintro a b s s' q rfl _ hs hq
    obtain rfl : a = [] := hempty a (by simp)
    cases hq
    exact ⟨_, rfl, hs, .refl _⟩
  | next _ ih =>
    intro a b s s' q hstreams hb hs hq
    rcases two_streams_split hstreams with ⟨rfl, hrest⟩ | ⟨rfl, hrest⟩
    · obtain ⟨v, p, hv, hp, rfl⟩ := serve_cons_eq_some hq
      obtain ⟨v', hv', hresp, hvs⟩ := serveOne_sameBehindPorts _ hs hv
      obtain ⟨u, hu, hus, hsub⟩ := ih _ b v v' p hrest (by rwa [serveOne_cfg hv]) hvs hp
      refine ⟨_, serve_cons hv' hu, hus, ?_⟩
      rw [hresp]
      exact hsub.cons_cons _
    · obtain ⟨⟨hobs, hwhole⟩, hb⟩ := List.forall_mem_cons.1 hb
      obtain ⟨hcore, hcfg, hdraws⟩ := hs
      obtain ⟨v', hv', hcore', hcfg', hdraws'⟩ := serveOne_observing hobs (hcfg ▸ hwhole)
      obtain ⟨u, hu, hus, hsub⟩ :=
        ih a _ s v' q hrest hb ⟨hcore'.trans hcore, hcfg'.trans hcfg, hdraws'.trans hdraws⟩ hq
      exact ⟨_, serve_cons hv' hu, hus, hsub.cons _⟩

/-- Settles O57: both are served from one state, which does not differ from itself. -/
theorem observingHostDoesNotDisturbAnother : Obligations.ObservingHostDoesNotDisturbAnother := by
  intro a b rs s q h hb hq
  obtain ⟨u, hu, ⟨hcore, _⟩, hsub⟩ := serve_interleaved h a b s s q rfl hb ⟨rfl, rfl, rfl⟩ hq
  exact ⟨u, hu, congrArg CoreState.rt hcore, congrArg CoreState.ls hcore, hsub⟩

end Sys2Proof.Machine
end
